-- ==== Sys2Proof/Word.lean ====
section
/-! DEFINITION. The two word types of the block: bytes and 16-bit words (00_scope.md R5, R8). All register and memory
contents are unsigned bit patterns; addition and subtraction on them are modular. -/

namespace Sys2Proof

/-- An unsigned 8-bit value. -/
abbrev Byte := BitVec 8

/-- An unsigned 16-bit value. -/
abbrev Word := BitVec 16

end Sys2Proof
end

