-- ==== Sys2Proof/Syntax.lean ====
section
/-! DEFINITION. The instruction set as data: operation identities (30_encoding.md R111), addressing modes
(40_addressing_modes.md R130), the opcode-table row (R108), the instruction itself, one constructor per row
of the reference table (R112), and the instruction record (10_state.md R40). -/

namespace Sys2Proof

/-- The operation identities: the 56 of the reference set (30_encoding.md R111), and the identities outside it that a
caller-supplied table may name (R108; log 34). -/
inductive Op where
  | ADC | AND | ASL | BCC | BCS | BEQ | BIT | BMI
  | BNE | BPL | BRK | BVC | BVS | CLC | CLD | CLI
  | CLV | CMP | CPX | CPY | DEC | DEX | DEY | EOR
  | INC | INX | INY | JMP | JSR | LDA | LDX | LDY
  | LSR | NOP | ORA | PHA | PHP | PLA | PLP | ROL
  | ROR | RTI | RTS | SBC | SEC | SED | SEI | STA
  | STX | STY | TAX | TAY | TSX | TXA | TXS | TYA
  /-- an identity outside the reference set; no row of the reference table has one -/
  | other (n : Nat)
  deriving DecidableEq, Repr

/-- The thirteen addressing modes (40_addressing_modes.md R130). -/
inductive Mode where
  /-- implied: no operand byte -/
  | IMP
  /-- accumulator: no operand byte, the operand is `A` -/
  | ACC
  /-- immediate: one literal byte -/
  | IMM
  /-- zero page -/
  | ZP
  /-- zero page indexed by X -/
  | ZPX
  /-- zero page indexed by Y -/
  | ZPY
  /-- absolute -/
  | ABS
  /-- absolute indexed by X -/
  | ABX
  /-- absolute indexed by Y -/
  | ABY
  /-- indirect: a two-byte pointer -/
  | IND
  /-- indexed-indirect `($nn,X)` -/
  | IZX
  /-- indirect-indexed `($nn),Y` -/
  | IZY
  /-- relative: one signed displacement byte -/
  | REL
  deriving DecidableEq, Repr

/-- An entry of the opcode table (30_encoding.md R108): operation identity, addressing mode, base cycle count,
extra-cycle-on-page-cross flag. -/
structure Entry where
  op    : Op
  mode  : Mode
  cyc   : Nat
  xflag : Bool
  deriving DecidableEq, Repr

/-- The operand bytes of an instruction, by format: F1 none, F2 one byte, F3 two bytes read as a word
(30_encoding.md R101 to R103). -/
inductive Operand where
  | none
  | byte (b : Byte)
  | word (w : Word)
  deriving DecidableEq, Repr

/-- The instructions, one constructor per row of the reference opcode table (30_encoding.md R112): the
operation identity in lower case, and the addressing mode where the operation has more than one. The argument is
the operand byte or the little-endian operand word; every value of it is legal (R114). -/
inductive Instr where
  -- ADC, add with carry, R234
  | adcImm (imm : Byte)
  | adcZp (zp : Byte)
  | adcZpx (zp : Byte)
  | adcAbs (addr : Word)
  | adcAbx (addr : Word)
  | adcAby (addr : Word)
  | adcIzx (zp : Byte)
  | adcIzy (zp : Byte)
  -- AND, bitwise and, R236
  | andImm (imm : Byte)
  | andZp (zp : Byte)
  | andZpx (zp : Byte)
  | andAbs (addr : Word)
  | andAbx (addr : Word)
  | andAby (addr : Word)
  | andIzx (zp : Byte)
  | andIzy (zp : Byte)
  -- ASL, arithmetic shift left, R249
  | aslAcc
  | aslZp (zp : Byte)
  | aslZpx (zp : Byte)
  | aslAbs (addr : Word)
  | aslAbx (addr : Word)
  -- BCC, branch if carry clear, R275
  | bcc (disp : Byte)
  -- BCS, branch if carry set, R276
  | bcs (disp : Byte)
  -- BEQ, branch if zero set, R277
  | beq (disp : Byte)
  -- BIT, bit test, R242
  | bitZp (zp : Byte)
  | bitAbs (addr : Word)
  -- BMI, branch if negative set, R279
  | bmi (disp : Byte)
  -- BNE, branch if zero clear, R278
  | bne (disp : Byte)
  -- BPL, branch if negative clear, R280
  | bpl (disp : Byte)
  -- BRK, break (halts the engine), R171
  | brk
  -- BVC, branch if overflow clear, R281
  | bvc (disp : Byte)
  -- BVS, branch if overflow set, R282
  | bvs (disp : Byte)
  -- CLC, clear carry, R305
  | clc
  -- CLD, clear decimal, R309
  | cld
  -- CLI, clear interrupt-disabled, R307
  | cli
  -- CLV, clear overflow, R311
  | clv
  -- CMP, compare accumulator, R239
  | cmpImm (imm : Byte)
  | cmpZp (zp : Byte)
  | cmpZpx (zp : Byte)
  | cmpAbs (addr : Word)
  | cmpAbx (addr : Word)
  | cmpAby (addr : Word)
  | cmpIzx (zp : Byte)
  | cmpIzy (zp : Byte)
  -- CPX, compare X, R240
  | cpxImm (imm : Byte)
  | cpxZp (zp : Byte)
  | cpxAbs (addr : Word)
  -- CPY, compare Y, R241
  | cpyImm (imm : Byte)
  | cpyZp (zp : Byte)
  | cpyAbs (addr : Word)
  -- DEC, decrement memory, R244
  | decZp (zp : Byte)
  | decZpx (zp : Byte)
  | decAbs (addr : Word)
  | decAbx (addr : Word)
  -- DEX, decrement X, R247
  | dex
  -- DEY, decrement Y, R248
  | dey
  -- EOR, exclusive or, R238
  | eorImm (imm : Byte)
  | eorZp (zp : Byte)
  | eorZpx (zp : Byte)
  | eorAbs (addr : Word)
  | eorAbx (addr : Word)
  | eorAby (addr : Word)
  | eorIzx (zp : Byte)
  | eorIzy (zp : Byte)
  -- INC, increment memory, R243
  | incZp (zp : Byte)
  | incZpx (zp : Byte)
  | incAbs (addr : Word)
  | incAbx (addr : Word)
  -- INX, increment X, R245
  | inx
  -- INY, increment Y, R246
  | iny
  -- JMP, jump, R271
  | jmpAbs (addr : Word)
  | jmpInd (ptr : Word)
  -- JSR, jump to subroutine, R272
  | jsr (addr : Word)
  -- LDA, load accumulator, R201
  | ldaImm (imm : Byte)
  | ldaZp (zp : Byte)
  | ldaZpx (zp : Byte)
  | ldaAbs (addr : Word)
  | ldaAbx (addr : Word)
  | ldaAby (addr : Word)
  | ldaIzx (zp : Byte)
  | ldaIzy (zp : Byte)
  -- LDX, load X, R202
  | ldxImm (imm : Byte)
  | ldxZp (zp : Byte)
  | ldxZpy (zp : Byte)
  | ldxAbs (addr : Word)
  | ldxAby (addr : Word)
  -- LDY, load Y, R203
  | ldyImm (imm : Byte)
  | ldyZp (zp : Byte)
  | ldyZpx (zp : Byte)
  | ldyAbs (addr : Word)
  | ldyAbx (addr : Word)
  -- LSR, logical shift right, R250
  | lsrAcc
  | lsrZp (zp : Byte)
  | lsrZpx (zp : Byte)
  | lsrAbs (addr : Word)
  | lsrAbx (addr : Word)
  -- NOP, no operation, R283
  | nop
  -- ORA, inclusive or, R237
  | oraImm (imm : Byte)
  | oraZp (zp : Byte)
  | oraZpx (zp : Byte)
  | oraAbs (addr : Word)
  | oraAbx (addr : Word)
  | oraAby (addr : Word)
  | oraIzx (zp : Byte)
  | oraIzy (zp : Byte)
  -- PHA, push accumulator, R301
  | pha
  -- PHP, push processor status, R302
  | php
  -- PLA, pull accumulator, R303
  | pla
  -- PLP, pull processor status, R304
  | plp
  -- ROL, rotate left through carry, R251
  | rolAcc
  | rolZp (zp : Byte)
  | rolZpx (zp : Byte)
  | rolAbs (addr : Word)
  | rolAbx (addr : Word)
  -- ROR, rotate right through carry, R252
  | rorAcc
  | rorZp (zp : Byte)
  | rorZpx (zp : Byte)
  | rorAbs (addr : Word)
  | rorAbx (addr : Word)
  -- RTI, return from interrupt, R274
  | rti
  -- RTS, return from subroutine, R273
  | rts
  -- SBC, subtract with carry, R235
  | sbcImm (imm : Byte)
  | sbcZp (zp : Byte)
  | sbcZpx (zp : Byte)
  | sbcAbs (addr : Word)
  | sbcAbx (addr : Word)
  | sbcAby (addr : Word)
  | sbcIzx (zp : Byte)
  | sbcIzy (zp : Byte)
  -- SEC, set carry, R306
  | sec
  -- SED, set decimal, R310
  | sed
  -- SEI, set interrupt-disabled, R308
  | sei
  -- STA, store accumulator, R204
  | staZp (zp : Byte)
  | staZpx (zp : Byte)
  | staAbs (addr : Word)
  | staAbx (addr : Word)
  | staAby (addr : Word)
  | staIzx (zp : Byte)
  | staIzy (zp : Byte)
  -- STX, store X, R205
  | stxZp (zp : Byte)
  | stxZpy (zp : Byte)
  | stxAbs (addr : Word)
  -- STY, store Y, R206
  | styZp (zp : Byte)
  | styZpx (zp : Byte)
  | styAbs (addr : Word)
  -- TAX, transfer A to X, R207
  | tax
  -- TAY, transfer A to Y, R208
  | tay
  -- TSX, transfer SP to X, R211
  | tsx
  -- TXA, transfer X to A, R209
  | txa
  -- TXS, transfer X to SP, R212
  | txs
  -- TYA, transfer Y to A, R210
  | tya
  deriving DecidableEq, Repr

/-- The operand location the resolver produces: no address (the accumulator is the operand), or a concrete
address (10_state.md R40, field `loc`). -/
inductive OperandLoc where
  | none
  | addr (a : Word)
  deriving DecidableEq, Repr

/-- The instruction record, the source's ephemeral Instruction value (10_state.md R40). A copy of the most recent one
is kept in the last-instruction slot (R41). -/
structure InstrRecord where
  op      : Op
  mode    : Mode
  cyc     : Nat
  xflag   : Bool
  loc     : OperandLoc
  arg     : Word
  len     : Nat
  crossed : Bool
  deriving DecidableEq, Repr

end Sys2Proof
end

