-- ==== Sys2Proof/Decode.lean ====
section
/-! DEFINITION. Encoding and decoding (30_encoding.md): instruction lengths (R100, R109), the reference opcode table by
operation (R112), the decoder from the opcode matrix (R112, R113), total on any bytes and rejecting by name, the
encoder, and the byte-order helpers they use (R69, R103, R106). The reference table's rows are general knowledge adopted
by the spec's decision D12 (log 5). -/

namespace Sys2Proof

/-- The word with low byte `lo` and high byte `hi`, `(hi << 8) | lo` (20_memory.md R66). -/
def mkWord (lo hi : Byte) : Word := hi ++ lo

/-- The low byte `w[7:0]` (20_memory.md R67). -/
def loByte (w : Word) : Byte := w.extractLsb' 0 8

/-- The high byte `w[15:8]` (20_memory.md R67). -/
def hiByte (w : Word) : Byte := w.extractLsb' 8 8

/-- Total instruction length in bytes, by addressing mode (30_encoding.md R109). -/
def Mode.len : Mode → Nat
  | .IMP | .ACC => 1
  | .IMM | .ZP | .ZPX | .ZPY | .IZX | .IZY | .REL => 2
  | .ABS | .ABX | .ABY | .IND => 3

/-- A row of the reference table: the opcode byte and its entry (30_encoding.md R112). -/
structure TableRow where
  opcode : Byte
  entry  : Entry
  deriving DecidableEq, Repr

/-- The reference table by operation (30_encoding.md R112): opcode byte, operation, mode, base cycle count, extra-cycle
flag. Every row but the operations of 0xA9 and 0x00 is general knowledge (R110, D12; log 5). -/
def Instr.row : Instr → TableRow
  | .adcImm _ => ⟨0x69, .ADC, .IMM, 2, false⟩
  | .adcZp _ => ⟨0x65, .ADC, .ZP, 3, false⟩
  | .adcZpx _ => ⟨0x75, .ADC, .ZPX, 4, false⟩
  | .adcAbs _ => ⟨0x6D, .ADC, .ABS, 4, false⟩
  | .adcAbx _ => ⟨0x7D, .ADC, .ABX, 4, true⟩
  | .adcAby _ => ⟨0x79, .ADC, .ABY, 4, true⟩
  | .adcIzx _ => ⟨0x61, .ADC, .IZX, 6, false⟩
  | .adcIzy _ => ⟨0x71, .ADC, .IZY, 5, true⟩
  | .andImm _ => ⟨0x29, .AND, .IMM, 2, false⟩
  | .andZp _ => ⟨0x25, .AND, .ZP, 3, false⟩
  | .andZpx _ => ⟨0x35, .AND, .ZPX, 4, false⟩
  | .andAbs _ => ⟨0x2D, .AND, .ABS, 4, false⟩
  | .andAbx _ => ⟨0x3D, .AND, .ABX, 4, true⟩
  | .andAby _ => ⟨0x39, .AND, .ABY, 4, true⟩
  | .andIzx _ => ⟨0x21, .AND, .IZX, 6, false⟩
  | .andIzy _ => ⟨0x31, .AND, .IZY, 5, true⟩
  | .aslAcc => ⟨0x0A, .ASL, .ACC, 2, false⟩
  | .aslZp _ => ⟨0x06, .ASL, .ZP, 5, false⟩
  | .aslZpx _ => ⟨0x16, .ASL, .ZPX, 6, false⟩
  | .aslAbs _ => ⟨0x0E, .ASL, .ABS, 6, false⟩
  | .aslAbx _ => ⟨0x1E, .ASL, .ABX, 7, false⟩
  | .bcc _ => ⟨0x90, .BCC, .REL, 2, false⟩
  | .bcs _ => ⟨0xB0, .BCS, .REL, 2, false⟩
  | .beq _ => ⟨0xF0, .BEQ, .REL, 2, false⟩
  | .bitZp _ => ⟨0x24, .BIT, .ZP, 3, false⟩
  | .bitAbs _ => ⟨0x2C, .BIT, .ABS, 4, false⟩
  | .bmi _ => ⟨0x30, .BMI, .REL, 2, false⟩
  | .bne _ => ⟨0xD0, .BNE, .REL, 2, false⟩
  | .bpl _ => ⟨0x10, .BPL, .REL, 2, false⟩
  | .brk => ⟨0x00, .BRK, .IMP, 7, false⟩
  | .bvc _ => ⟨0x50, .BVC, .REL, 2, false⟩
  | .bvs _ => ⟨0x70, .BVS, .REL, 2, false⟩
  | .clc => ⟨0x18, .CLC, .IMP, 2, false⟩
  | .cld => ⟨0xD8, .CLD, .IMP, 2, false⟩
  | .cli => ⟨0x58, .CLI, .IMP, 2, false⟩
  | .clv => ⟨0xB8, .CLV, .IMP, 2, false⟩
  | .cmpImm _ => ⟨0xC9, .CMP, .IMM, 2, false⟩
  | .cmpZp _ => ⟨0xC5, .CMP, .ZP, 3, false⟩
  | .cmpZpx _ => ⟨0xD5, .CMP, .ZPX, 4, false⟩
  | .cmpAbs _ => ⟨0xCD, .CMP, .ABS, 4, false⟩
  | .cmpAbx _ => ⟨0xDD, .CMP, .ABX, 4, true⟩
  | .cmpAby _ => ⟨0xD9, .CMP, .ABY, 4, true⟩
  | .cmpIzx _ => ⟨0xC1, .CMP, .IZX, 6, false⟩
  | .cmpIzy _ => ⟨0xD1, .CMP, .IZY, 5, true⟩
  | .cpxImm _ => ⟨0xE0, .CPX, .IMM, 2, false⟩
  | .cpxZp _ => ⟨0xE4, .CPX, .ZP, 3, false⟩
  | .cpxAbs _ => ⟨0xEC, .CPX, .ABS, 4, false⟩
  | .cpyImm _ => ⟨0xC0, .CPY, .IMM, 2, false⟩
  | .cpyZp _ => ⟨0xC4, .CPY, .ZP, 3, false⟩
  | .cpyAbs _ => ⟨0xCC, .CPY, .ABS, 4, false⟩
  | .decZp _ => ⟨0xC6, .DEC, .ZP, 5, false⟩
  | .decZpx _ => ⟨0xD6, .DEC, .ZPX, 6, false⟩
  | .decAbs _ => ⟨0xCE, .DEC, .ABS, 6, false⟩
  | .decAbx _ => ⟨0xDE, .DEC, .ABX, 7, false⟩
  | .dex => ⟨0xCA, .DEX, .IMP, 2, false⟩
  | .dey => ⟨0x88, .DEY, .IMP, 2, false⟩
  | .eorImm _ => ⟨0x49, .EOR, .IMM, 2, false⟩
  | .eorZp _ => ⟨0x45, .EOR, .ZP, 3, false⟩
  | .eorZpx _ => ⟨0x55, .EOR, .ZPX, 4, false⟩
  | .eorAbs _ => ⟨0x4D, .EOR, .ABS, 4, false⟩
  | .eorAbx _ => ⟨0x5D, .EOR, .ABX, 4, true⟩
  | .eorAby _ => ⟨0x59, .EOR, .ABY, 4, true⟩
  | .eorIzx _ => ⟨0x41, .EOR, .IZX, 6, false⟩
  | .eorIzy _ => ⟨0x51, .EOR, .IZY, 5, true⟩
  | .incZp _ => ⟨0xE6, .INC, .ZP, 5, false⟩
  | .incZpx _ => ⟨0xF6, .INC, .ZPX, 6, false⟩
  | .incAbs _ => ⟨0xEE, .INC, .ABS, 6, false⟩
  | .incAbx _ => ⟨0xFE, .INC, .ABX, 7, false⟩
  | .inx => ⟨0xE8, .INX, .IMP, 2, false⟩
  | .iny => ⟨0xC8, .INY, .IMP, 2, false⟩
  | .jmpAbs _ => ⟨0x4C, .JMP, .ABS, 3, false⟩
  | .jmpInd _ => ⟨0x6C, .JMP, .IND, 5, false⟩
  | .jsr _ => ⟨0x20, .JSR, .ABS, 6, false⟩
  | .ldaImm _ => ⟨0xA9, .LDA, .IMM, 2, false⟩
  | .ldaZp _ => ⟨0xA5, .LDA, .ZP, 3, false⟩
  | .ldaZpx _ => ⟨0xB5, .LDA, .ZPX, 4, false⟩
  | .ldaAbs _ => ⟨0xAD, .LDA, .ABS, 4, false⟩
  | .ldaAbx _ => ⟨0xBD, .LDA, .ABX, 4, true⟩
  | .ldaAby _ => ⟨0xB9, .LDA, .ABY, 4, true⟩
  | .ldaIzx _ => ⟨0xA1, .LDA, .IZX, 6, false⟩
  | .ldaIzy _ => ⟨0xB1, .LDA, .IZY, 5, true⟩
  | .ldxImm _ => ⟨0xA2, .LDX, .IMM, 2, false⟩
  | .ldxZp _ => ⟨0xA6, .LDX, .ZP, 3, false⟩
  | .ldxZpy _ => ⟨0xB6, .LDX, .ZPY, 4, false⟩
  | .ldxAbs _ => ⟨0xAE, .LDX, .ABS, 4, false⟩
  | .ldxAby _ => ⟨0xBE, .LDX, .ABY, 4, true⟩
  | .ldyImm _ => ⟨0xA0, .LDY, .IMM, 2, false⟩
  | .ldyZp _ => ⟨0xA4, .LDY, .ZP, 3, false⟩
  | .ldyZpx _ => ⟨0xB4, .LDY, .ZPX, 4, false⟩
  | .ldyAbs _ => ⟨0xAC, .LDY, .ABS, 4, false⟩
  | .ldyAbx _ => ⟨0xBC, .LDY, .ABX, 4, true⟩
  | .lsrAcc => ⟨0x4A, .LSR, .ACC, 2, false⟩
  | .lsrZp _ => ⟨0x46, .LSR, .ZP, 5, false⟩
  | .lsrZpx _ => ⟨0x56, .LSR, .ZPX, 6, false⟩
  | .lsrAbs _ => ⟨0x4E, .LSR, .ABS, 6, false⟩
  | .lsrAbx _ => ⟨0x5E, .LSR, .ABX, 7, false⟩
  | .nop => ⟨0xEA, .NOP, .IMP, 2, false⟩
  | .oraImm _ => ⟨0x09, .ORA, .IMM, 2, false⟩
  | .oraZp _ => ⟨0x05, .ORA, .ZP, 3, false⟩
  | .oraZpx _ => ⟨0x15, .ORA, .ZPX, 4, false⟩
  | .oraAbs _ => ⟨0x0D, .ORA, .ABS, 4, false⟩
  | .oraAbx _ => ⟨0x1D, .ORA, .ABX, 4, true⟩
  | .oraAby _ => ⟨0x19, .ORA, .ABY, 4, true⟩
  | .oraIzx _ => ⟨0x01, .ORA, .IZX, 6, false⟩
  | .oraIzy _ => ⟨0x11, .ORA, .IZY, 5, true⟩
  | .pha => ⟨0x48, .PHA, .IMP, 3, false⟩
  | .php => ⟨0x08, .PHP, .IMP, 3, false⟩
  | .pla => ⟨0x68, .PLA, .IMP, 4, false⟩
  | .plp => ⟨0x28, .PLP, .IMP, 4, false⟩
  | .rolAcc => ⟨0x2A, .ROL, .ACC, 2, false⟩
  | .rolZp _ => ⟨0x26, .ROL, .ZP, 5, false⟩
  | .rolZpx _ => ⟨0x36, .ROL, .ZPX, 6, false⟩
  | .rolAbs _ => ⟨0x2E, .ROL, .ABS, 6, false⟩
  | .rolAbx _ => ⟨0x3E, .ROL, .ABX, 7, false⟩
  | .rorAcc => ⟨0x6A, .ROR, .ACC, 2, false⟩
  | .rorZp _ => ⟨0x66, .ROR, .ZP, 5, false⟩
  | .rorZpx _ => ⟨0x76, .ROR, .ZPX, 6, false⟩
  | .rorAbs _ => ⟨0x6E, .ROR, .ABS, 6, false⟩
  | .rorAbx _ => ⟨0x7E, .ROR, .ABX, 7, false⟩
  | .rti => ⟨0x40, .RTI, .IMP, 6, false⟩
  | .rts => ⟨0x60, .RTS, .IMP, 6, false⟩
  | .sbcImm _ => ⟨0xE9, .SBC, .IMM, 2, false⟩
  | .sbcZp _ => ⟨0xE5, .SBC, .ZP, 3, false⟩
  | .sbcZpx _ => ⟨0xF5, .SBC, .ZPX, 4, false⟩
  | .sbcAbs _ => ⟨0xED, .SBC, .ABS, 4, false⟩
  | .sbcAbx _ => ⟨0xFD, .SBC, .ABX, 4, true⟩
  | .sbcAby _ => ⟨0xF9, .SBC, .ABY, 4, true⟩
  | .sbcIzx _ => ⟨0xE1, .SBC, .IZX, 6, false⟩
  | .sbcIzy _ => ⟨0xF1, .SBC, .IZY, 5, true⟩
  | .sec => ⟨0x38, .SEC, .IMP, 2, false⟩
  | .sed => ⟨0xF8, .SED, .IMP, 2, false⟩
  | .sei => ⟨0x78, .SEI, .IMP, 2, false⟩
  | .staZp _ => ⟨0x85, .STA, .ZP, 3, false⟩
  | .staZpx _ => ⟨0x95, .STA, .ZPX, 4, false⟩
  | .staAbs _ => ⟨0x8D, .STA, .ABS, 4, false⟩
  | .staAbx _ => ⟨0x9D, .STA, .ABX, 5, false⟩
  | .staAby _ => ⟨0x99, .STA, .ABY, 5, false⟩
  | .staIzx _ => ⟨0x81, .STA, .IZX, 6, false⟩
  | .staIzy _ => ⟨0x91, .STA, .IZY, 6, false⟩
  | .stxZp _ => ⟨0x86, .STX, .ZP, 3, false⟩
  | .stxZpy _ => ⟨0x96, .STX, .ZPY, 4, false⟩
  | .stxAbs _ => ⟨0x8E, .STX, .ABS, 4, false⟩
  | .styZp _ => ⟨0x84, .STY, .ZP, 3, false⟩
  | .styZpx _ => ⟨0x94, .STY, .ZPX, 4, false⟩
  | .styAbs _ => ⟨0x8C, .STY, .ABS, 4, false⟩
  | .tax => ⟨0xAA, .TAX, .IMP, 2, false⟩
  | .tay => ⟨0xA8, .TAY, .IMP, 2, false⟩
  | .tsx => ⟨0xBA, .TSX, .IMP, 2, false⟩
  | .txa => ⟨0x8A, .TXA, .IMP, 2, false⟩
  | .txs => ⟨0x9A, .TXS, .IMP, 2, false⟩
  | .tya => ⟨0x98, .TYA, .IMP, 2, false⟩

/-- The opcode byte of an instruction. -/
def Instr.opcode (i : Instr) : Byte := i.row.opcode

/-- The table entry of an instruction. -/
def Instr.entry (i : Instr) : Entry := i.row.entry

/-- The operation identity of an instruction. -/
def Instr.op (i : Instr) : Op := i.entry.op

/-- The addressing mode of an instruction. -/
def Instr.mode (i : Instr) : Mode := i.entry.mode

/-- The total length of an instruction in bytes (30_encoding.md R109). -/
def Instr.len (i : Instr) : Nat := i.mode.len

/-- The operand bytes an instruction carries (30_encoding.md R101 to R103). -/
def Instr.operand : Instr → Operand
  | .aslAcc | .brk | .clc | .cld | .cli | .clv | .dex | .dey | .inx | .iny | .lsrAcc | .nop | .pha | .php
  | .pla | .plp | .rolAcc | .rorAcc | .rti | .rts | .sec | .sed | .sei | .tax | .tay | .tsx | .txa | .txs
  | .tya => .none
  | .adcImm b | .adcZp b | .adcZpx b | .adcIzx b | .adcIzy b | .andImm b | .andZp b | .andZpx b | .andIzx b
  | .andIzy b | .aslZp b | .aslZpx b | .bcc b | .bcs b | .beq b | .bitZp b | .bmi b | .bne b | .bpl b
  | .bvc b | .bvs b | .cmpImm b | .cmpZp b | .cmpZpx b | .cmpIzx b | .cmpIzy b | .cpxImm b | .cpxZp b
  | .cpyImm b | .cpyZp b | .decZp b | .decZpx b | .eorImm b | .eorZp b | .eorZpx b | .eorIzx b | .eorIzy b
  | .incZp b | .incZpx b | .ldaImm b | .ldaZp b | .ldaZpx b | .ldaIzx b | .ldaIzy b | .ldxImm b | .ldxZp b
  | .ldxZpy b | .ldyImm b | .ldyZp b | .ldyZpx b | .lsrZp b | .lsrZpx b | .oraImm b | .oraZp b | .oraZpx b
  | .oraIzx b | .oraIzy b | .rolZp b | .rolZpx b | .rorZp b | .rorZpx b | .sbcImm b | .sbcZp b | .sbcZpx b
  | .sbcIzx b | .sbcIzy b | .staZp b | .staZpx b | .staIzx b | .staIzy b | .stxZp b | .stxZpy b | .styZp b
  | .styZpx b => .byte b
  | .adcAbs w | .adcAbx w | .adcAby w | .andAbs w | .andAbx w | .andAby w | .aslAbs w | .aslAbx w | .bitAbs w
  | .cmpAbs w | .cmpAbx w | .cmpAby w | .cpxAbs w | .cpyAbs w | .decAbs w | .decAbx w | .eorAbs w | .eorAbx w
  | .eorAby w | .incAbs w | .incAbx w | .jmpAbs w | .jmpInd w | .jsr w | .ldaAbs w | .ldaAbx w | .ldaAby w
  | .ldxAbs w | .ldxAby w | .ldyAbs w | .ldyAbx w | .lsrAbs w | .lsrAbx w | .oraAbs w | .oraAbx w | .oraAby w
  | .rolAbs w | .rolAbx w | .rorAbs w | .rorAbx w | .sbcAbs w | .sbcAbx w | .sbcAby w | .staAbs w | .staAbx w
  | .staAby w | .stxAbs w | .styAbs w => .word w

/-- The raw addressing-mode argument: the operand bytes as a word, 0 where there are none (30_encoding.md R105,
R106; 40_addressing_modes.md R131). -/
def Instr.arg (i : Instr) : Word :=
  match i.operand with
  | .none => 0
  | .byte b => b.zeroExtend 16
  | .word w => w

/-- What an opcode byte announces: an instruction with no operand byte (F1), with one (F2), or with a little-endian
word (F3). -/
inductive Form where
  | f1 (i : Instr)
  | f2 (f : Byte → Instr)
  | f3 (f : Word → Instr)

/-- Why bytes do not decode: no byte at all, an opcode byte with no table entry (30_encoding.md R113), or operand bytes
missing at the end of the list. -/
inductive DecodeError where
  | noBytes
  | illegalOpcode (opc : Byte)
  | missingOperand (opc : Byte)
  deriving DecidableEq, Repr

/-- The opcode matrix (30_encoding.md R112), read row by row; a byte it does not name is illegal (R113). Decoding is a
lookup of the whole byte (R104). -/
def decodeOpcode (opc : Byte) : Option Form :=
  match opc with
  | 0x00 => some (.f1 .brk)
  | 0x01 => some (.f2 .oraIzx)
  | 0x05 => some (.f2 .oraZp)
  | 0x06 => some (.f2 .aslZp)
  | 0x08 => some (.f1 .php)
  | 0x09 => some (.f2 .oraImm)
  | 0x0A => some (.f1 .aslAcc)
  | 0x0D => some (.f3 .oraAbs)
  | 0x0E => some (.f3 .aslAbs)
  | 0x10 => some (.f2 .bpl)
  | 0x11 => some (.f2 .oraIzy)
  | 0x15 => some (.f2 .oraZpx)
  | 0x16 => some (.f2 .aslZpx)
  | 0x18 => some (.f1 .clc)
  | 0x19 => some (.f3 .oraAby)
  | 0x1D => some (.f3 .oraAbx)
  | 0x1E => some (.f3 .aslAbx)
  | 0x20 => some (.f3 .jsr)
  | 0x21 => some (.f2 .andIzx)
  | 0x24 => some (.f2 .bitZp)
  | 0x25 => some (.f2 .andZp)
  | 0x26 => some (.f2 .rolZp)
  | 0x28 => some (.f1 .plp)
  | 0x29 => some (.f2 .andImm)
  | 0x2A => some (.f1 .rolAcc)
  | 0x2C => some (.f3 .bitAbs)
  | 0x2D => some (.f3 .andAbs)
  | 0x2E => some (.f3 .rolAbs)
  | 0x30 => some (.f2 .bmi)
  | 0x31 => some (.f2 .andIzy)
  | 0x35 => some (.f2 .andZpx)
  | 0x36 => some (.f2 .rolZpx)
  | 0x38 => some (.f1 .sec)
  | 0x39 => some (.f3 .andAby)
  | 0x3D => some (.f3 .andAbx)
  | 0x3E => some (.f3 .rolAbx)
  | 0x40 => some (.f1 .rti)
  | 0x41 => some (.f2 .eorIzx)
  | 0x45 => some (.f2 .eorZp)
  | 0x46 => some (.f2 .lsrZp)
  | 0x48 => some (.f1 .pha)
  | 0x49 => some (.f2 .eorImm)
  | 0x4A => some (.f1 .lsrAcc)
  | 0x4C => some (.f3 .jmpAbs)
  | 0x4D => some (.f3 .eorAbs)
  | 0x4E => some (.f3 .lsrAbs)
  | 0x50 => some (.f2 .bvc)
  | 0x51 => some (.f2 .eorIzy)
  | 0x55 => some (.f2 .eorZpx)
  | 0x56 => some (.f2 .lsrZpx)
  | 0x58 => some (.f1 .cli)
  | 0x59 => some (.f3 .eorAby)
  | 0x5D => some (.f3 .eorAbx)
  | 0x5E => some (.f3 .lsrAbx)
  | 0x60 => some (.f1 .rts)
  | 0x61 => some (.f2 .adcIzx)
  | 0x65 => some (.f2 .adcZp)
  | 0x66 => some (.f2 .rorZp)
  | 0x68 => some (.f1 .pla)
  | 0x69 => some (.f2 .adcImm)
  | 0x6A => some (.f1 .rorAcc)
  | 0x6C => some (.f3 .jmpInd)
  | 0x6D => some (.f3 .adcAbs)
  | 0x6E => some (.f3 .rorAbs)
  | 0x70 => some (.f2 .bvs)
  | 0x71 => some (.f2 .adcIzy)
  | 0x75 => some (.f2 .adcZpx)
  | 0x76 => some (.f2 .rorZpx)
  | 0x78 => some (.f1 .sei)
  | 0x79 => some (.f3 .adcAby)
  | 0x7D => some (.f3 .adcAbx)
  | 0x7E => some (.f3 .rorAbx)
  | 0x81 => some (.f2 .staIzx)
  | 0x84 => some (.f2 .styZp)
  | 0x85 => some (.f2 .staZp)
  | 0x86 => some (.f2 .stxZp)
  | 0x88 => some (.f1 .dey)
  | 0x8A => some (.f1 .txa)
  | 0x8C => some (.f3 .styAbs)
  | 0x8D => some (.f3 .staAbs)
  | 0x8E => some (.f3 .stxAbs)
  | 0x90 => some (.f2 .bcc)
  | 0x91 => some (.f2 .staIzy)
  | 0x94 => some (.f2 .styZpx)
  | 0x95 => some (.f2 .staZpx)
  | 0x96 => some (.f2 .stxZpy)
  | 0x98 => some (.f1 .tya)
  | 0x99 => some (.f3 .staAby)
  | 0x9A => some (.f1 .txs)
  | 0x9D => some (.f3 .staAbx)
  | 0xA0 => some (.f2 .ldyImm)
  | 0xA1 => some (.f2 .ldaIzx)
  | 0xA2 => some (.f2 .ldxImm)
  | 0xA4 => some (.f2 .ldyZp)
  | 0xA5 => some (.f2 .ldaZp)
  | 0xA6 => some (.f2 .ldxZp)
  | 0xA8 => some (.f1 .tay)
  | 0xA9 => some (.f2 .ldaImm)
  | 0xAA => some (.f1 .tax)
  | 0xAC => some (.f3 .ldyAbs)
  | 0xAD => some (.f3 .ldaAbs)
  | 0xAE => some (.f3 .ldxAbs)
  | 0xB0 => some (.f2 .bcs)
  | 0xB1 => some (.f2 .ldaIzy)
  | 0xB4 => some (.f2 .ldyZpx)
  | 0xB5 => some (.f2 .ldaZpx)
  | 0xB6 => some (.f2 .ldxZpy)
  | 0xB8 => some (.f1 .clv)
  | 0xB9 => some (.f3 .ldaAby)
  | 0xBA => some (.f1 .tsx)
  | 0xBC => some (.f3 .ldyAbx)
  | 0xBD => some (.f3 .ldaAbx)
  | 0xBE => some (.f3 .ldxAby)
  | 0xC0 => some (.f2 .cpyImm)
  | 0xC1 => some (.f2 .cmpIzx)
  | 0xC4 => some (.f2 .cpyZp)
  | 0xC5 => some (.f2 .cmpZp)
  | 0xC6 => some (.f2 .decZp)
  | 0xC8 => some (.f1 .iny)
  | 0xC9 => some (.f2 .cmpImm)
  | 0xCA => some (.f1 .dex)
  | 0xCC => some (.f3 .cpyAbs)
  | 0xCD => some (.f3 .cmpAbs)
  | 0xCE => some (.f3 .decAbs)
  | 0xD0 => some (.f2 .bne)
  | 0xD1 => some (.f2 .cmpIzy)
  | 0xD5 => some (.f2 .cmpZpx)
  | 0xD6 => some (.f2 .decZpx)
  | 0xD8 => some (.f1 .cld)
  | 0xD9 => some (.f3 .cmpAby)
  | 0xDD => some (.f3 .cmpAbx)
  | 0xDE => some (.f3 .decAbx)
  | 0xE0 => some (.f2 .cpxImm)
  | 0xE1 => some (.f2 .sbcIzx)
  | 0xE4 => some (.f2 .cpxZp)
  | 0xE5 => some (.f2 .sbcZp)
  | 0xE6 => some (.f2 .incZp)
  | 0xE8 => some (.f1 .inx)
  | 0xE9 => some (.f2 .sbcImm)
  | 0xEA => some (.f1 .nop)
  | 0xEC => some (.f3 .cpxAbs)
  | 0xED => some (.f3 .sbcAbs)
  | 0xEE => some (.f3 .incAbs)
  | 0xF0 => some (.f2 .beq)
  | 0xF1 => some (.f2 .sbcIzy)
  | 0xF5 => some (.f2 .sbcZpx)
  | 0xF6 => some (.f2 .incZpx)
  | 0xF8 => some (.f1 .sed)
  | 0xF9 => some (.f3 .sbcAby)
  | 0xFD => some (.f3 .sbcAbx)
  | 0xFE => some (.f3 .incAbx)
  | _ => none

/-- The decoder: one instruction from the front of a list of bytes, and the bytes after it (30_encoding.md R100, R115). -/
def decode : List Byte → Except DecodeError (Instr × List Byte)
  | [] => .error .noBytes
  | opc :: rest =>
    match decodeOpcode opc, rest with
    | none, _ => .error (.illegalOpcode opc)
    | some (.f1 i), _ => .ok (i, rest)
    | some (.f2 f), b :: rest' => .ok (f b, rest')
    | some (.f3 f), lo :: hi :: rest' => .ok (f (mkWord lo hi), rest')
    | some _, _ => .error (.missingOperand opc)

/-- The instruction an opcode byte and the two bytes after it hold, the later ones used only where the format needs
them. -/
def decodeBytes (opc b1 b2 : Byte) : Option Instr :=
  match decodeOpcode opc with
  | none => none
  | some (.f1 i) => some i
  | some (.f2 f) => some (f b1)
  | some (.f3 f) => some (f (mkWord b1 b2))

/-- The opcode table as a function of the opcode byte (30_encoding.md R108). -/
def optable (opc : Byte) : Option Entry := (decodeBytes opc 0 0).map Instr.entry

/-- The operand bytes as they stand in memory after the opcode byte, low byte first (30_encoding.md R102, R103). -/
def Operand.bytes : Operand → List Byte
  | .none => []
  | .byte b => [b]
  | .word w => [loByte w, hiByte w]

/-- The encoder: the bytes of an instruction (30_encoding.md R101 to R103). -/
def encode (i : Instr) : List Byte := i.opcode :: i.operand.bytes

/-- The bytes of a table word of `nbits` bits, first byte first, every bit above `nbits` zero, up to the longest
instruction (three bytes). -/
def tableWordBytes (nbits w : Nat) : List Byte :=
  let v := w % 2 ^ nbits
  [BitVec.ofNat 8 v, BitVec.ofNat 8 (v / 256), BitVec.ofNat 8 (v / 65536)]

/-- The instruction the decoder reads from the bytes of a table word. -/
def decodeTableWord (nbits w : Nat) : Option Instr :=
  match decode (tableWordBytes nbits w) with
  | .ok (i, _) => some i
  | .error _ => none

end Sys2Proof
end

