-- ==== Sys2Proof/Config.lean ====
section
/-! DEFINITION. The configuration of the block: the parameters its source names without a value (00_scope.md R6), and
the reference configuration REFCFG (R6, D1). The opcode table and the handler map, the other two parameters of R6, are
`EngineInputs` (Machine/Handler.lean), and INIT is an argument of `powerOn` (Machine/Commands.lean). -/

namespace Sys2Proof

/-- What a 16-bit access at position 0xFFFF does (20_memory.md R68, D2): its second byte is at 0x0000, or it faults. -/
inductive TopWrap where
  | wrap
  | fault
  deriving DecidableEq, Repr

/-- The five address constants and the top-of-memory policy (00_scope.md R6). -/
structure Config where
  resetVector   : Word
  stackBase     : Word
  prgBase       : Word
  breakSentinel : Word
  testVector    : Word
  topWrap       : TopWrap
  deriving DecidableEq, Repr

/-- REFCFG (00_scope.md R6, D1, D2): three values are the processor family's, two are the spec's arbitrary choice (log 4). -/
def Config.ref : Config where
  resetVector   := 0xFFFC
  stackBase     := 0x0100
  prgBase       := 0x8000
  breakSentinel := 0xFFFF
  testVector    := 0xFFFE
  topWrap       := .wrap

end Sys2Proof
end

