-- ==== Sys2Proof/Machine/State.lean ====
section
/-! DEFINITION. The state of the block (10_state.md), the ways a step can stop (60_exceptions.md R330 to R332), and the
state right after reset (R46). -/

namespace Sys2Proof.Machine

/-- The engine status (10_state.md R38). -/
inductive EngineStatus where
  | idle
  | running
  | halted
  deriving DecidableEq, Repr

/-- The six flags, six separate bits (10_state.md R27): carry, zero, interrupt-disabled, decimal, overflow, negative. -/
structure Flags where
  c : Bool
  z : Bool
  i : Bool
  d : Bool
  v : Bool
  n : Bool
  deriving DecidableEq, Repr

/-- Memory as a list of (cell, byte) pairs in one canonical form (`Memory.wf`); an unlisted cell holds 0, since the array
is "Created zero-filled" (10_state.md R43). -/
abbrev Memory := List Host.Cell

/-- The state of the block (10_state.md, "The complete state is the tuple"), and the configuration it runs under. -/
structure State where
  /-- accumulator (R21) -/
  a       : Byte
  /-- first index register (R22) -/
  x       : Byte
  /-- second index register (R23) -/
  y       : Byte
  /-- stack pointer (R42) -/
  sp      : Byte
  /-- program counter (R24) -/
  pc      : Word
  /-- the six flags (R27) -/
  flags   : Flags
  /-- the 65536 memory cells (R43) -/
  mem     : Memory
  /-- engine status (R38) -/
  es      : EngineStatus
  /-- pending-cycle counter, an unbounded natural (R39, D14) -/
  pending : Nat
  /-- last-instruction slot (R41) -/
  last    : Option InstrRecord
  /-- the configuration, which nothing writes: the model's own field, not state of the block (R45; log 1) -/
  cfg     : Config
  deriving DecidableEq, Repr

/-- The subsystem a failure a handler reports is tagged with (41_engine_step.md R179). -/
inductive Subsystem where
  | memory
  | stack
  | decode
  | dispatch
  deriving DecidableEq, Repr

/-- Fatal failures (60_exceptions.md R330 to R332). All are safe: the spec itself ends execution there, and no claim may
be read off the state of a fault (R331). -/
inductive Fault where
  /-- Raised by the fetch of an opcode byte with no table entry (R170). Safe: the spec names this failure. -/
  | decode (opc : Byte)
  /-- Raised by `engineStep` for an identity with no registered handler (R180); never by `step`, whose handlers are
  the reference ones. Safe: the spec names this failure. -/
  | dispatch (op : Op)
  /-- Raised by a 16-bit access at 0xFFFF under TOP_WRAP = fault (20_memory.md R68). Safe: the spec names this failure. -/
  | memory (pos : Word)
  /-- Raised by the two host load commands for a sequence that does not fit (R333). Safe: the spec names this failure. -/
  | load (base : Word) (length : Nat)
  /-- Raised by `engineStep` for a handler that reports a structural failure of its own: the subsystem it is tagged with
  and whatever the handler reports (41_engine_step.md R160 line 6, R179; 60_exceptions.md R332; log 19); never by `step`,
  since the reference handlers always succeed. Safe: the spec names this failure. -/
  | handler (kind : Subsystem) (info : List Nat)
  deriving DecidableEq, Repr

/-- Reasons an instruction has no meaning in the model. Safe: a refusal only stops. -/
inductive Refusal where
  /-- Raised by an arm of `exec` whose instruction has no meaning yet; no arm of this model is such an arm. Safe. -/
  | notModelled (mnemonic : String)
  deriving DecidableEq, Repr

/-- The outcome of a step or of a host command. -/
abbrev Result := Host.Outcome State Fault Refusal

/-- The machine right after reset: power-on (every cell 0, status idle, counter 0, slot empty) followed by the reset
operation (X and Y zeroed, PC from the reset vector, which reads 0x0000 in zero memory) (10_state.md R46,
70_reset_and_hazards.md R361 to R365; log 3). The spec gives A, SP and the flags no value: 0 is a DESIGN CHOICE (log 2).
The configuration is REFCFG (log 4). -/
def State.reset : State where
  a       := 0
  x       := 0
  y       := 0
  sp      := 0
  pc      := 0
  flags   := { c := false, z := false, i := false, d := false, v := false, n := false }
  mem     := []
  es      := .idle
  pending := 0
  last    := none
  cfg     := Config.ref

end Sys2Proof.Machine
end

