-- ==== Sys2Proof/Machine/Ops.lean ====
section
/-! DEFINITION. The named operations over registers, memory and stack (10_state.md, 20_memory.md). There is no exception,
trap or interrupt entry to share (60_exceptions.md R336, R337); the events that leave the ordinary flow are the fatal
failures (R330), which are outcomes, and the break, which only halts (`haltOnBreak`, Machine/Handler.lean). -/

namespace Sys2Proof.Machine

/-! ## The memory array -/

/-- The byte a cell holds; an unlisted cell holds 0 (10_state.md R43). -/
def Memory.cell : Memory → Nat → Byte
  | [], _ => 0
  | (k, v) :: rest, a => if k = a then v else Memory.cell rest a

/-- The memory with a cell's entry removed. -/
def Memory.erase (m : Memory) (a : Nat) : Memory := m.filter fun p => p.1 != a

/-- The memory with an entry added before the first entry of a larger address. -/
def Memory.insert : Memory → Nat → Byte → Memory
  | [], a, v => [(a, v)]
  | (k, w) :: rest, a, v => if a < k then (a, v) :: (k, w) :: rest else (k, w) :: Memory.insert rest a v

/-- The memory with one cell written. Writing what an unlisted cell holds removes the entry. -/
def Memory.put (m : Memory) (a : Nat) (v : Byte) : Memory :=
  if v = 0 then m.erase a else (m.erase a).insert a v

/-- The canonical form: addresses strictly rising and inside the array, no entry equal to what an unlisted cell holds. -/
abbrev Memory.wf (m : Memory) : Prop :=
  m.Pairwise (fun p q => p.1 < q.1) ∧ ∀ p ∈ m, p.1 < 65536 ∧ p.2 ≠ 0

/-! ## The memory bus -/

/-- `Eff(addr)`: the cell a read of `addr` uses (20_memory.md R62). -/
def eff (addr : Word) : Word := if addr < 0x2000 then addr &&& 0x07FF else addr

/-- `M[a]`: the byte in physical cell `a` (10_state.md R43). -/
def State.cell (s : State) (a : Word) : Byte := s.mem.cell a.toNat

/-- `MemRead(addr, 1)`, with the read mirror (20_memory.md R62). -/
def State.readByte (s : State) (addr : Word) : Byte := s.cell (eff addr)

/-- `MemWrite(addr, 1, v)`, with no mirror (20_memory.md R63). -/
def State.writeByte (s : State) (addr : Word) (v : Byte) : State :=
  { s with mem := s.mem.put addr.toNat v }

/-- Whether a 16-bit access at `pos` is the faulting top-of-memory case (20_memory.md R68). -/
def wordFaults (cfg : Config) (pos : Word) : Bool := pos == 0xFFFF && cfg.topWrap == .fault

/-- The little-endian word whose bytes are read at `pos` and `pos + 1`, each with the mirror (20_memory.md R66). -/
def State.wordAt (s : State) (pos : Word) : Word := mkWord (s.readByte pos) (s.readByte (pos + 1))

/-- `MemRead(pos, 2)` (20_memory.md R66, R68). -/
def State.readWord (s : State) (pos : Word) : Except Fault Word :=
  if wordFaults s.cfg pos then .error (.memory pos) else .ok (s.wordAt pos)

/-- `MemWrite(pos, 2, w)`: low byte, then high byte (20_memory.md R67, R68). -/
def State.writeWord (s : State) (pos w : Word) : Except Fault State :=
  if wordFaults s.cfg pos then .error (.memory pos)
  else .ok ((s.writeByte pos (loByte w)).writeByte (pos + 1) (hiByte w))

/-! ## Registers, flags, engine status -/

/-- `A <- v` (10_state.md R21). -/
def State.setA (s : State) (v : Byte) : State := { s with a := v }

/-- `X <- v` (10_state.md R22). -/
def State.setX (s : State) (v : Byte) : State := { s with x := v }

/-- `Y <- v` (10_state.md R23). -/
def State.setY (s : State) (v : Byte) : State := { s with y := v }

/-- `SP <- v` (10_state.md R42). -/
def State.setSP (s : State) (v : Byte) : State := { s with sp := v }

/-- `PC <- t` (10_state.md R24). -/
def State.setPC (s : State) (t : Word) : State := { s with pc := t }

/-- All six flags at once (10_state.md R27). -/
def State.setFlags (s : State) (f : Flags) : State := { s with flags := f }

/-- `es <- e` (10_state.md R38). -/
def State.setStatus (s : State) (e : EngineStatus) : State := { s with es := e }

/-- `pending <- n` (10_state.md R39). -/
def State.setPending (s : State) (n : Nat) : State := { s with pending := n }

/-- `last <- r` (10_state.md R41). -/
def State.setLast (s : State) (r : Option InstrRecord) : State := { s with last := r }

/-- Step 5, `PC <- PC + len`, modular (41_engine_step.md R173). -/
def State.advance (s : State) (len : Nat) : State := s.setPC (s.pc + BitVec.ofNat 16 len)

/-- What step 7 adds to the pending-cycle counter (41_engine_step.md R181). -/
def cycleCharge (ins : InstrRecord) : Nat := (ins.cyc - 1) + if ins.xflag && ins.crossed then 1 else 0

/-- Step 7 (41_engine_step.md R181). -/
def State.charge (s : State) (ins : InstrRecord) : State := s.setPending (s.pending + cycleCharge ins)

/-- The run loop's "if pending is nonzero, decrement it by one" (41_engine_step.md R183). -/
def State.spend (s : State) : State := s.setPending (s.pending - 1)

/-! ## The stack controller -/

/-- The address of a stack slot, `STACK_BASE | zext(sp)` (20_memory.md R78). -/
def stackAddr (cfg : Config) (sp : Byte) : Word := cfg.stackBase ||| sp.zeroExtend 16

/-- `Push(v)`: write at the slot, then decrement the pointer (20_memory.md R79). -/
def State.push (s : State) (v : Byte) : State :=
  (s.writeByte (stackAddr s.cfg s.sp) v).setSP (s.sp - 1)

/-- `Pop()`: increment the pointer, then read at the slot (20_memory.md R80). -/
def State.pop (s : State) : Byte × State :=
  (s.readByte (stackAddr s.cfg (s.sp + 1)), s.setSP (s.sp + 1))

/-- `Push16(w)`: the high byte, then the low byte (20_memory.md R81). -/
def State.push16 (s : State) (w : Word) : State := (s.push (hiByte w)).push (loByte w)

/-- `Pop16()`: the low byte, then the high byte (20_memory.md R82). -/
def State.pop16 (s : State) : Word × State := (mkWord s.pop.1 s.pop.2.pop.1, s.pop.2.pop.2)

end Sys2Proof.Machine
end

