-- ==== Sys2Proof/Machine/Flags.lean ====
section
/-! DEFINITION. The flag computations: SetZN (10_state.md R33), the status byte (R34 to R36), and the carry, overflow and
compare rules of the arithmetic operations (43_ref_arith_logic.md R231, R234, R239, R242, R249 to R252). -/

namespace Sys2Proof.Machine

/-- The flags after `SetZN(r)`: Z when `r` is 0, N its bit 7 (10_state.md R33). -/
def Flags.withZN (f : Flags) (r : Byte) : Flags := { f with z := r == 0, n := r.getLsbD 7 }

/-- `SetZN(r)` (10_state.md R33). -/
def State.setZN (s : State) (r : Byte) : State := s.setFlags (s.flags.withZN r)

/-- `C <- b`. -/
def State.setC (s : State) (b : Bool) : State := s.setFlags { s.flags with c := b }

/-- `I <- b`. -/
def State.setI (s : State) (b : Bool) : State := s.setFlags { s.flags with i := b }

/-- `D <- b`. -/
def State.setD (s : State) (b : Bool) : State := s.setFlags { s.flags with d := b }

/-- `V <- b`. -/
def State.setV (s : State) (b : Bool) : State := s.setFlags { s.flags with v := b }

/-- One bit at a place of a byte. -/
def bitAt (b : Bool) (place : Nat) : Byte := if b then 1 <<< place else 0

/-- `EncodeStatus(ctx)`: the six flags, bit 5 set, bit 4 the context (10_state.md R34, R35). -/
def encodeStatus (f : Flags) (ctx : Bool) : Byte :=
  bitAt f.n 7 ||| bitAt f.v 6 ||| bitAt true 5 ||| bitAt ctx 4 ||| bitAt f.d 3 ||| bitAt f.i 2 ||| bitAt f.z 1 |||
    bitAt f.c 0

/-- `DecodeStatus(b)`: the six flags; bits 4 and 5 are ignored (10_state.md R36). -/
def decodeStatus (b : Byte) : Flags where
  c := b.getLsbD 0
  z := b.getLsbD 1
  i := b.getLsbD 2
  d := b.getLsbD 3
  v := b.getLsbD 6
  n := b.getLsbD 7

/-- The result, carry and overflow of an addition with carry in (43_ref_arith_logic.md R231). -/
structure Sum where
  result   : Byte
  carry    : Bool
  overflow : Bool
  deriving DecidableEq, Repr

/-- `s = a + m + c` as a natural; the result is `s mod 256`, carry is `s > 255`, overflow is both addends differing from
the result in bit 7 (43_ref_arith_logic.md R231, R234). -/
def addWithCarry (a m : Byte) (c : Bool) : Sum :=
  let s := a.toNat + m.toNat + c.toNat
  let r := BitVec.ofNat 8 s
  { result := r, carry := decide (255 < s), overflow := (a ^^^ r) &&& (m ^^^ r) &&& 0x80 != 0 }

/-- The common body of ADC and SBC: A, C, V, Z and N from `A + m + C` (43_ref_arith_logic.md R234, R235). -/
def State.addToA (s : State) (m : Byte) : State :=
  let r := addWithCarry s.a m s.flags.c
  (((s.setA r.result).setV r.overflow).setC r.carry).setZN r.result

/-- The common body of CMP, CPX and CPY: C when `reg ≥ m` unsigned, Z and N of the difference (43_ref_arith_logic.md R239). -/
def State.compare (s : State) (reg m : Byte) : State := (s.setC (decide (m ≤ reg))).setZN (reg - m)

/-- BIT: Z of `A & m`, N and V bits 7 and 6 of `m` (43_ref_arith_logic.md R242). -/
def State.bitTest (s : State) (m : Byte) : State :=
  s.setFlags { s.flags with z := s.a &&& m == 0, n := m.getLsbD 7, v := m.getLsbD 6 }

/-- A shifted byte and the bit that fell out of it. -/
structure Shifted where
  result : Byte
  out    : Bool
  deriving DecidableEq, Repr

/-- ASL: bit 0 is 0, bit 7 falls out (43_ref_arith_logic.md R249). -/
def shiftLeft (v : Byte) (_ : Bool) : Shifted := ⟨v <<< 1, v.getLsbD 7⟩

/-- LSR: bit 7 is 0, bit 0 falls out (43_ref_arith_logic.md R250). -/
def shiftRight (v : Byte) (_ : Bool) : Shifted := ⟨v >>> 1, v.getLsbD 0⟩

/-- ROL: the old carry enters bit 0 (43_ref_arith_logic.md R251). -/
def rotateLeft (v : Byte) (c : Bool) : Shifted := ⟨v <<< 1 ||| bitAt c 0, v.getLsbD 7⟩

/-- ROR: the old carry enters bit 7 (43_ref_arith_logic.md R252). -/
def rotateRight (v : Byte) (c : Bool) : Shifted := ⟨v >>> 1 ||| bitAt c 7, v.getLsbD 0⟩

end Sys2Proof.Machine
end

