-- ==== Sys2Proof/Machine/Operands.lean ====
section
/-! DEFINITION. The addressing-mode resolver (40_addressing_modes.md R130 to R146), the instruction record it fills
(10_state.md R40), and the uniform operand accessor (41_engine_step.md R176, R177). -/

namespace Sys2Proof.Machine

/-- An indexed 16-bit address and whether the index carried into the high byte (40_addressing_modes.md R145). -/
def indexedAddress (base : Word) (index : Byte) : OperandLoc × Bool :=
  let ea := base + index.zeroExtend 16
  (.addr ea, hiByte ea != hiByte base)

/-- The word a zero-page pointer holds, both bytes from the zero page (40_addressing_modes.md R142, R143). -/
def State.zeroPageWord (s : State) (z : Byte) : Word :=
  mkWord (s.readByte (z.zeroExtend 16)) (s.readByte ((z + 1).zeroExtend 16))

/-- The operand location and the page-cross bit of a mode, given its raw argument (40_addressing_modes.md R132 to R144).
Where the IND pointer read faults (`resolutionFault`), this value is not used. -/
def resolveLoc (mode : Mode) (arg : Word) (s : State) : OperandLoc × Bool :=
  let op8 := loByte arg
  match mode with
  | .IMP => (.none, false)
  | .ACC => (.none, false)
  | .IMM => (.none, false)
  | .ZP  => (.addr (op8.zeroExtend 16), false)
  | .ZPX => (.addr ((op8 + s.x).zeroExtend 16), false)
  | .ZPY => (.addr ((op8 + s.y).zeroExtend 16), false)
  | .ABS => (.addr arg, false)
  | .ABX => indexedAddress arg s.x
  | .ABY => indexedAddress arg s.y
  | .IND => (.addr (s.wordAt arg), false)
  | .IZX => (.addr (s.zeroPageWord (op8 + s.x)), false)
  | .IZY => indexedAddress (s.zeroPageWord op8) s.y
  | .REL => (.none, false)

/-- The one fault resolution can raise once the operand bytes are read: the IND pointer at 0xFFFF under TOP_WRAP = fault
(40_addressing_modes.md R141, R146). -/
def resolutionFault (mode : Mode) (arg : Word) (s : State) : Option Fault :=
  if mode == .IND && wordFaults s.cfg arg then some (.memory arg) else none

/-- What `Resolve` returns (40_addressing_modes.md R131). -/
structure Resolution where
  loc     : OperandLoc
  arg     : Word
  len     : Nat
  crossed : Bool
  deriving DecidableEq, Repr

/-- The raw argument `Resolve` reads after the opcode byte at `pc`: nothing, `op8` or `op16` (40_addressing_modes.md R131). -/
def operandArg (mode : Mode) (pc : Word) (s : State) : Except Fault Word :=
  match mode with
  | .IMP | .ACC => .ok 0
  | .IMM | .ZP | .ZPX | .ZPY | .IZX | .IZY | .REL => .ok ((s.readByte (pc + 1)).zeroExtend 16)
  | .ABS | .ABX | .ABY | .IND => s.readWord (pc + 1)

/-- `Resolve(mode, pc)` as the spec writes it, reading the operand bytes from memory (40_addressing_modes.md R131). -/
def resolve (mode : Mode) (pc : Word) (s : State) : Except Fault Resolution :=
  match operandArg mode pc s with
  | .error f => .error f
  | .ok arg =>
    match resolutionFault mode arg s with
    | some f => .error f
    | none => .ok ⟨(resolveLoc mode arg s).1, arg, mode.len, (resolveLoc mode arg s).2⟩

/-- The instruction record of a table entry and its resolution (10_state.md R40). -/
def mkRecord (e : Entry) (r : Resolution) : InstrRecord :=
  { op := e.op, mode := e.mode, cyc := e.cyc, xflag := e.xflag, loc := r.loc, arg := r.arg, len := r.len,
    crossed := r.crossed }

/-- The record of a decoded instruction, resolved at a state (10_state.md R40, 41_engine_step.md R169). -/
def instrRecord (i : Instr) (s : State) : InstrRecord :=
  mkRecord i.entry ⟨(resolveLoc i.mode i.arg s).1, i.arg, i.len, (resolveLoc i.mode i.arg s).2⟩

/-- `OperandRead(ins)`: the byte at the address; in immediate mode the literal; otherwise A (41_engine_step.md R176, D8). -/
def operandRead (ins : InstrRecord) (s : State) : Byte :=
  match ins.loc with
  | .addr a => s.readByte a
  | .none => if ins.mode = .IMM then loByte ins.arg else s.a

/-- `OperandWrite(ins, v)`: the cell at the address, unmirrored, or A (41_engine_step.md R177). -/
def operandWrite (ins : InstrRecord) (v : Byte) (s : State) : State :=
  match ins.loc with
  | .addr a => s.writeByte a v
  | .none => s.setA v

end Sys2Proof.Machine
end

