-- ==== Sys2Proof/Machine/Handler.lean ====
section
/-! DEFINITION. The handler interface (41_engine_step.md R175 to R179), the caller-supplied inputs of the engine, and what
the engine does around a handler: steps 2 to 8 of the engine step for a decoded instruction (R160). -/

namespace Sys2Proof.Machine

/-- A fault with the state at its raising line: what the lines before it did stands (60_exceptions.md R331,
41_engine_step.md R161; log 18). -/
structure Failure where
  fault : Fault
  state : State
  deriving DecidableEq, Repr

/-- A handler: it sees the instruction record and the state with PC advanced, and returns success or a structural failure,
which is the fault of a primitive it used (20_memory.md R68) or one it reports itself, `Fault.handler`, with the state it
leaves (41_engine_step.md R175, R179; log 19). What a handler may touch is `Handler.InReach`. -/
abbrev Handler := InstrRecord → State → Except Failure State

/-- The two parameters of 00_scope.md R6 that are functions, the block's opcode-table and handler-dispatch interfaces
(R12): read-only, fixed for the life of the engine, no state of the block (10_state.md R45, 30_encoding.md R108,
41_engine_step.md R175). -/
structure EngineInputs where
  optable  : Byte → Option Entry
  handlers : Op → Option Handler

/-- Step 6 onward for a handler that was found: run it, propagate its failure, charge the cycles (41_engine_step.md R174,
R179, R181). -/
def runHandler (h : Handler) (ins : InstrRecord) (s : State) : Result :=
  match h ins s with
  | .error f => .fault f.fault
  | .ok t => .next (t.charge ins)

/-- An ordinary instruction (41_engine_step.md R160): resolve, keep the record in `last`, advance PC, run the handler,
charge the cycles. -/
def perform (i : Instr) (h : Handler) (s : State) : Result :=
  match resolutionFault i.mode i.arg s with
  | some f => .fault f
  | none =>
    let ins := instrRecord i s
    runHandler h ins ((s.setLast (some ins)).advance ins.len)

/-- The break (41_engine_step.md R171): keep the record in `last`, halt, and nothing else. -/
def haltOnBreak (i : Instr) (s : State) : Result :=
  .next ((s.setLast (some (instrRecord i s))).setStatus .halted)

end Sys2Proof.Machine
end

