-- ==== Sys2Proof/Machine/ArithLogic.lean ====
section
/-! DEFINITION. Arithmetic, logic, compare, bit test, increment, decrement, shifts and rotates (43_ref_arith_logic.md R230
to R254): for each operation its reference handler, then one meaning per opcode-table row. Every input is read before
anything is written (R254). General knowledge adopted by the spec's decision D13 (log 6). -/

namespace Sys2Proof.Machine

/-! ## Add and subtract -/

/-- ADC (R234): `A + m + C`, flags C, V, Z, N; the decimal flag is not read (R233). -/
def handleADC : Handler := fun ins s => .ok (s.addToA (operandRead ins s))

/-- `ADC #$nn`, opcode 0x69, R234. -/
def execAdcImm (imm : Byte) (s : State) : Result :=
  perform (.adcImm imm) handleADC s

/-- `ADC $nn`, opcode 0x65, R234. -/
def execAdcZp (zp : Byte) (s : State) : Result :=
  perform (.adcZp zp) handleADC s

/-- `ADC $nn,X`, opcode 0x75, R234. -/
def execAdcZpx (zp : Byte) (s : State) : Result :=
  perform (.adcZpx zp) handleADC s

/-- `ADC $nnnn`, opcode 0x6D, R234. -/
def execAdcAbs (addr : Word) (s : State) : Result :=
  perform (.adcAbs addr) handleADC s

/-- `ADC $nnnn,X`, opcode 0x7D, R234. -/
def execAdcAbx (addr : Word) (s : State) : Result :=
  perform (.adcAbx addr) handleADC s

/-- `ADC $nnnn,Y`, opcode 0x79, R234. -/
def execAdcAby (addr : Word) (s : State) : Result :=
  perform (.adcAby addr) handleADC s

/-- `ADC ($nn,X)`, opcode 0x61, R234. -/
def execAdcIzx (zp : Byte) (s : State) : Result :=
  perform (.adcIzx zp) handleADC s

/-- `ADC ($nn),Y`, opcode 0x71, R234. -/
def execAdcIzy (zp : Byte) (s : State) : Result :=
  perform (.adcIzy zp) handleADC s
/-- SBC (R235): ADC of the complemented operand. -/
def handleSBC : Handler := fun ins s => .ok (s.addToA (operandRead ins s ^^^ 0xFF))

/-- `SBC #$nn`, opcode 0xE9, R235. -/
def execSbcImm (imm : Byte) (s : State) : Result :=
  perform (.sbcImm imm) handleSBC s

/-- `SBC $nn`, opcode 0xE5, R235. -/
def execSbcZp (zp : Byte) (s : State) : Result :=
  perform (.sbcZp zp) handleSBC s

/-- `SBC $nn,X`, opcode 0xF5, R235. -/
def execSbcZpx (zp : Byte) (s : State) : Result :=
  perform (.sbcZpx zp) handleSBC s

/-- `SBC $nnnn`, opcode 0xED, R235. -/
def execSbcAbs (addr : Word) (s : State) : Result :=
  perform (.sbcAbs addr) handleSBC s

/-- `SBC $nnnn,X`, opcode 0xFD, R235. -/
def execSbcAbx (addr : Word) (s : State) : Result :=
  perform (.sbcAbx addr) handleSBC s

/-- `SBC $nnnn,Y`, opcode 0xF9, R235. -/
def execSbcAby (addr : Word) (s : State) : Result :=
  perform (.sbcAby addr) handleSBC s

/-- `SBC ($nn,X)`, opcode 0xE1, R235. -/
def execSbcIzx (zp : Byte) (s : State) : Result :=
  perform (.sbcIzx zp) handleSBC s

/-- `SBC ($nn),Y`, opcode 0xF1, R235. -/
def execSbcIzy (zp : Byte) (s : State) : Result :=
  perform (.sbcIzy zp) handleSBC s
/-! ## Bitwise logic -/

/-- AND (R236). -/
def handleAND : Handler := fun ins s =>
  let r := s.a &&& operandRead ins s
  .ok ((s.setA r).setZN r)

/-- `AND #$nn`, opcode 0x29, R236. -/
def execAndImm (imm : Byte) (s : State) : Result :=
  perform (.andImm imm) handleAND s

/-- `AND $nn`, opcode 0x25, R236. -/
def execAndZp (zp : Byte) (s : State) : Result :=
  perform (.andZp zp) handleAND s

/-- `AND $nn,X`, opcode 0x35, R236. -/
def execAndZpx (zp : Byte) (s : State) : Result :=
  perform (.andZpx zp) handleAND s

/-- `AND $nnnn`, opcode 0x2D, R236. -/
def execAndAbs (addr : Word) (s : State) : Result :=
  perform (.andAbs addr) handleAND s

/-- `AND $nnnn,X`, opcode 0x3D, R236. -/
def execAndAbx (addr : Word) (s : State) : Result :=
  perform (.andAbx addr) handleAND s

/-- `AND $nnnn,Y`, opcode 0x39, R236. -/
def execAndAby (addr : Word) (s : State) : Result :=
  perform (.andAby addr) handleAND s

/-- `AND ($nn,X)`, opcode 0x21, R236. -/
def execAndIzx (zp : Byte) (s : State) : Result :=
  perform (.andIzx zp) handleAND s

/-- `AND ($nn),Y`, opcode 0x31, R236. -/
def execAndIzy (zp : Byte) (s : State) : Result :=
  perform (.andIzy zp) handleAND s
/-- ORA (R237). -/
def handleORA : Handler := fun ins s =>
  let r := s.a ||| operandRead ins s
  .ok ((s.setA r).setZN r)

/-- `ORA #$nn`, opcode 0x09, R237. -/
def execOraImm (imm : Byte) (s : State) : Result :=
  perform (.oraImm imm) handleORA s

/-- `ORA $nn`, opcode 0x05, R237. -/
def execOraZp (zp : Byte) (s : State) : Result :=
  perform (.oraZp zp) handleORA s

/-- `ORA $nn,X`, opcode 0x15, R237. -/
def execOraZpx (zp : Byte) (s : State) : Result :=
  perform (.oraZpx zp) handleORA s

/-- `ORA $nnnn`, opcode 0x0D, R237. -/
def execOraAbs (addr : Word) (s : State) : Result :=
  perform (.oraAbs addr) handleORA s

/-- `ORA $nnnn,X`, opcode 0x1D, R237. -/
def execOraAbx (addr : Word) (s : State) : Result :=
  perform (.oraAbx addr) handleORA s

/-- `ORA $nnnn,Y`, opcode 0x19, R237. -/
def execOraAby (addr : Word) (s : State) : Result :=
  perform (.oraAby addr) handleORA s

/-- `ORA ($nn,X)`, opcode 0x01, R237. -/
def execOraIzx (zp : Byte) (s : State) : Result :=
  perform (.oraIzx zp) handleORA s

/-- `ORA ($nn),Y`, opcode 0x11, R237. -/
def execOraIzy (zp : Byte) (s : State) : Result :=
  perform (.oraIzy zp) handleORA s
/-- EOR (R238). -/
def handleEOR : Handler := fun ins s =>
  let r := s.a ^^^ operandRead ins s
  .ok ((s.setA r).setZN r)

/-- `EOR #$nn`, opcode 0x49, R238. -/
def execEorImm (imm : Byte) (s : State) : Result :=
  perform (.eorImm imm) handleEOR s

/-- `EOR $nn`, opcode 0x45, R238. -/
def execEorZp (zp : Byte) (s : State) : Result :=
  perform (.eorZp zp) handleEOR s

/-- `EOR $nn,X`, opcode 0x55, R238. -/
def execEorZpx (zp : Byte) (s : State) : Result :=
  perform (.eorZpx zp) handleEOR s

/-- `EOR $nnnn`, opcode 0x4D, R238. -/
def execEorAbs (addr : Word) (s : State) : Result :=
  perform (.eorAbs addr) handleEOR s

/-- `EOR $nnnn,X`, opcode 0x5D, R238. -/
def execEorAbx (addr : Word) (s : State) : Result :=
  perform (.eorAbx addr) handleEOR s

/-- `EOR $nnnn,Y`, opcode 0x59, R238. -/
def execEorAby (addr : Word) (s : State) : Result :=
  perform (.eorAby addr) handleEOR s

/-- `EOR ($nn,X)`, opcode 0x41, R238. -/
def execEorIzx (zp : Byte) (s : State) : Result :=
  perform (.eorIzx zp) handleEOR s

/-- `EOR ($nn),Y`, opcode 0x51, R238. -/
def execEorIzy (zp : Byte) (s : State) : Result :=
  perform (.eorIzy zp) handleEOR s
/-! ## Compare and bit test -/

/-- CMP (R239): flags of `A - m`, nothing else written. -/
def handleCMP : Handler := fun ins s => .ok (s.compare s.a (operandRead ins s))

/-- `CMP #$nn`, opcode 0xC9, R239. -/
def execCmpImm (imm : Byte) (s : State) : Result :=
  perform (.cmpImm imm) handleCMP s

/-- `CMP $nn`, opcode 0xC5, R239. -/
def execCmpZp (zp : Byte) (s : State) : Result :=
  perform (.cmpZp zp) handleCMP s

/-- `CMP $nn,X`, opcode 0xD5, R239. -/
def execCmpZpx (zp : Byte) (s : State) : Result :=
  perform (.cmpZpx zp) handleCMP s

/-- `CMP $nnnn`, opcode 0xCD, R239. -/
def execCmpAbs (addr : Word) (s : State) : Result :=
  perform (.cmpAbs addr) handleCMP s

/-- `CMP $nnnn,X`, opcode 0xDD, R239. -/
def execCmpAbx (addr : Word) (s : State) : Result :=
  perform (.cmpAbx addr) handleCMP s

/-- `CMP $nnnn,Y`, opcode 0xD9, R239. -/
def execCmpAby (addr : Word) (s : State) : Result :=
  perform (.cmpAby addr) handleCMP s

/-- `CMP ($nn,X)`, opcode 0xC1, R239. -/
def execCmpIzx (zp : Byte) (s : State) : Result :=
  perform (.cmpIzx zp) handleCMP s

/-- `CMP ($nn),Y`, opcode 0xD1, R239. -/
def execCmpIzy (zp : Byte) (s : State) : Result :=
  perform (.cmpIzy zp) handleCMP s
/-- CPX (R240): flags of `X - m`. -/
def handleCPX : Handler := fun ins s => .ok (s.compare s.x (operandRead ins s))

/-- `CPX #$nn`, opcode 0xE0, R240. -/
def execCpxImm (imm : Byte) (s : State) : Result :=
  perform (.cpxImm imm) handleCPX s

/-- `CPX $nn`, opcode 0xE4, R240. -/
def execCpxZp (zp : Byte) (s : State) : Result :=
  perform (.cpxZp zp) handleCPX s

/-- `CPX $nnnn`, opcode 0xEC, R240. -/
def execCpxAbs (addr : Word) (s : State) : Result :=
  perform (.cpxAbs addr) handleCPX s
/-- CPY (R241): flags of `Y - m`. -/
def handleCPY : Handler := fun ins s => .ok (s.compare s.y (operandRead ins s))

/-- `CPY #$nn`, opcode 0xC0, R241. -/
def execCpyImm (imm : Byte) (s : State) : Result :=
  perform (.cpyImm imm) handleCPY s

/-- `CPY $nn`, opcode 0xC4, R241. -/
def execCpyZp (zp : Byte) (s : State) : Result :=
  perform (.cpyZp zp) handleCPY s

/-- `CPY $nnnn`, opcode 0xCC, R241. -/
def execCpyAbs (addr : Word) (s : State) : Result :=
  perform (.cpyAbs addr) handleCPY s
/-- BIT (R242): Z from `A & m`, N and V from bits 7 and 6 of `m`. -/
def handleBIT : Handler := fun ins s => .ok (s.bitTest (operandRead ins s))

/-- `BIT $nn`, opcode 0x24, R242. -/
def execBitZp (zp : Byte) (s : State) : Result :=
  perform (.bitZp zp) handleBIT s

/-- `BIT $nnnn`, opcode 0x2C, R242. -/
def execBitAbs (addr : Word) (s : State) : Result :=
  perform (.bitAbs addr) handleBIT s
/-! ## Increment and decrement -/

/-- INC (R243). -/
def handleINC : Handler := fun ins s =>
  let r := operandRead ins s + 1
  .ok ((operandWrite ins r s).setZN r)

/-- `INC $nn`, opcode 0xE6, R243. -/
def execIncZp (zp : Byte) (s : State) : Result :=
  perform (.incZp zp) handleINC s

/-- `INC $nn,X`, opcode 0xF6, R243. -/
def execIncZpx (zp : Byte) (s : State) : Result :=
  perform (.incZpx zp) handleINC s

/-- `INC $nnnn`, opcode 0xEE, R243. -/
def execIncAbs (addr : Word) (s : State) : Result :=
  perform (.incAbs addr) handleINC s

/-- `INC $nnnn,X`, opcode 0xFE, R243. -/
def execIncAbx (addr : Word) (s : State) : Result :=
  perform (.incAbx addr) handleINC s
/-- DEC (R244). -/
def handleDEC : Handler := fun ins s =>
  let r := operandRead ins s - 1
  .ok ((operandWrite ins r s).setZN r)

/-- `DEC $nn`, opcode 0xC6, R244. -/
def execDecZp (zp : Byte) (s : State) : Result :=
  perform (.decZp zp) handleDEC s

/-- `DEC $nn,X`, opcode 0xD6, R244. -/
def execDecZpx (zp : Byte) (s : State) : Result :=
  perform (.decZpx zp) handleDEC s

/-- `DEC $nnnn`, opcode 0xCE, R244. -/
def execDecAbs (addr : Word) (s : State) : Result :=
  perform (.decAbs addr) handleDEC s

/-- `DEC $nnnn,X`, opcode 0xDE, R244. -/
def execDecAbx (addr : Word) (s : State) : Result :=
  perform (.decAbx addr) handleDEC s
/-- INX (R245). -/
def handleINX : Handler := fun _ s =>
  let r := s.x + 1
  .ok ((s.setX r).setZN r)

/-- `INX`, opcode 0xE8, R245. -/
def execInx (s : State) : Result :=
  perform .inx handleINX s
/-- INY (R246). -/
def handleINY : Handler := fun _ s =>
  let r := s.y + 1
  .ok ((s.setY r).setZN r)

/-- `INY`, opcode 0xC8, R246. -/
def execIny (s : State) : Result :=
  perform .iny handleINY s
/-- DEX (R247). -/
def handleDEX : Handler := fun _ s =>
  let r := s.x - 1
  .ok ((s.setX r).setZN r)

/-- `DEX`, opcode 0xCA, R247. -/
def execDex (s : State) : Result :=
  perform .dex handleDEX s
/-- DEY (R248). -/
def handleDEY : Handler := fun _ s =>
  let r := s.y - 1
  .ok ((s.setY r).setZN r)

/-- `DEY`, opcode 0x88, R248. -/
def execDey (s : State) : Result :=
  perform .dey handleDEY s
/-! ## Shifts and rotates -/

/-- Read the operand, write the shifted byte back, C the bit shifted out, Z and N of the result: the common shape of
R249 to R252. On a mirrored address R253 says that repeating the instruction gives the same result and flags every time.
The rotates take the "C before this instruction" (R251, R252), so for them that holds from the same C, and of every
repetition after the first (log 36). -/
def shiftOperand (shift : Byte → Bool → Shifted) (ins : InstrRecord) (s : State) : State :=
  let r := shift (operandRead ins s) s.flags.c
  ((operandWrite ins r.result s).setC r.out).setZN r.result

/-- ASL (R249). -/
def handleASL : Handler := fun ins s => .ok (shiftOperand shiftLeft ins s)

/-- `ASL A`, opcode 0x0A, R249. -/
def execAslAcc (s : State) : Result :=
  perform .aslAcc handleASL s

/-- `ASL $nn`, opcode 0x06, R249. -/
def execAslZp (zp : Byte) (s : State) : Result :=
  perform (.aslZp zp) handleASL s

/-- `ASL $nn,X`, opcode 0x16, R249. -/
def execAslZpx (zp : Byte) (s : State) : Result :=
  perform (.aslZpx zp) handleASL s

/-- `ASL $nnnn`, opcode 0x0E, R249. -/
def execAslAbs (addr : Word) (s : State) : Result :=
  perform (.aslAbs addr) handleASL s

/-- `ASL $nnnn,X`, opcode 0x1E, R249. -/
def execAslAbx (addr : Word) (s : State) : Result :=
  perform (.aslAbx addr) handleASL s
/-- LSR (R250). -/
def handleLSR : Handler := fun ins s => .ok (shiftOperand shiftRight ins s)

/-- `LSR A`, opcode 0x4A, R250. -/
def execLsrAcc (s : State) : Result :=
  perform .lsrAcc handleLSR s

/-- `LSR $nn`, opcode 0x46, R250. -/
def execLsrZp (zp : Byte) (s : State) : Result :=
  perform (.lsrZp zp) handleLSR s

/-- `LSR $nn,X`, opcode 0x56, R250. -/
def execLsrZpx (zp : Byte) (s : State) : Result :=
  perform (.lsrZpx zp) handleLSR s

/-- `LSR $nnnn`, opcode 0x4E, R250. -/
def execLsrAbs (addr : Word) (s : State) : Result :=
  perform (.lsrAbs addr) handleLSR s

/-- `LSR $nnnn,X`, opcode 0x5E, R250. -/
def execLsrAbx (addr : Word) (s : State) : Result :=
  perform (.lsrAbx addr) handleLSR s
/-- ROL (R251). -/
def handleROL : Handler := fun ins s => .ok (shiftOperand rotateLeft ins s)

/-- `ROL A`, opcode 0x2A, R251. -/
def execRolAcc (s : State) : Result :=
  perform .rolAcc handleROL s

/-- `ROL $nn`, opcode 0x26, R251. -/
def execRolZp (zp : Byte) (s : State) : Result :=
  perform (.rolZp zp) handleROL s

/-- `ROL $nn,X`, opcode 0x36, R251. -/
def execRolZpx (zp : Byte) (s : State) : Result :=
  perform (.rolZpx zp) handleROL s

/-- `ROL $nnnn`, opcode 0x2E, R251. -/
def execRolAbs (addr : Word) (s : State) : Result :=
  perform (.rolAbs addr) handleROL s

/-- `ROL $nnnn,X`, opcode 0x3E, R251. -/
def execRolAbx (addr : Word) (s : State) : Result :=
  perform (.rolAbx addr) handleROL s
/-- ROR (R252). -/
def handleROR : Handler := fun ins s => .ok (shiftOperand rotateRight ins s)

/-- `ROR A`, opcode 0x6A, R252. -/
def execRorAcc (s : State) : Result :=
  perform .rorAcc handleROR s

/-- `ROR $nn`, opcode 0x66, R252. -/
def execRorZp (zp : Byte) (s : State) : Result :=
  perform (.rorZp zp) handleROR s

/-- `ROR $nn,X`, opcode 0x76, R252. -/
def execRorZpx (zp : Byte) (s : State) : Result :=
  perform (.rorZpx zp) handleROR s

/-- `ROR $nnnn`, opcode 0x6E, R252. -/
def execRorAbs (addr : Word) (s : State) : Result :=
  perform (.rorAbs addr) handleROR s

/-- `ROR $nnnn,X`, opcode 0x7E, R252. -/
def execRorAbx (addr : Word) (s : State) : Result :=
  perform (.rorAbx addr) handleROR s
end Sys2Proof.Machine
end

