-- ==== Sys2Proof/Machine/Break.lean ====
section
/-! DEFINITION. The break operation, the one operation the engine itself implements (41_engine_step.md R171). It halts and
does nothing else: no push, no vector, no flag, no PC advance (60_exceptions.md R337). -/

namespace Sys2Proof.Machine

/-- `BRK`, opcode 0x00, R171. -/
def execBrk (s : State) : Result :=
  haltOnBreak .brk s
end Sys2Proof.Machine
end

