-- ==== Sys2Proof/Machine/ControlFlow.lean ====
section
/-! DEFINITION. Jumps, subroutines, branches, no-operation (44_ref_control_flow.md R270 to R284): for each operation its
reference handler, then one meaning per opcode-table row. Every handler sees the advanced PC (41_engine_step.md R173).
General knowledge adopted by the spec's decision D13 (log 6). -/

namespace Sys2Proof.Machine

/-! ## Jumps and subroutines -/

/-- The resolved address of a jump, `let Addr(a) = ins.loc` (R271, R272). The rows of JMP and JSR always have one;
without one PC is left as it is. -/
def jumpTarget (ins : InstrRecord) (s : State) : Word :=
  match ins.loc with
  | .addr a => a
  | .none => s.pc

/-- JMP (R271): `PC <- a`. -/
def handleJMP : Handler := fun ins s => .ok (s.setPC (jumpTarget ins s))

/-- `JMP $nnnn`, opcode 0x4C, R271. -/
def execJmpAbs (addr : Word) (s : State) : Result :=
  perform (.jmpAbs addr) handleJMP s

/-- `JMP ($nnnn)`, opcode 0x6C, R271. -/
def execJmpInd (ptr : Word) (s : State) : Result :=
  perform (.jmpInd ptr) handleJMP s
/-- JSR (R272): `Push16(PC - 1); PC <- a`, with PC the advanced counter. -/
def handleJSR : Handler := fun ins s => .ok ((s.push16 (s.pc - 1)).setPC (jumpTarget ins s))

/-- `JSR $nnnn`, opcode 0x20, R272. -/
def execJsr (addr : Word) (s : State) : Result :=
  perform (.jsr addr) handleJSR s
/-- RTS (R273): `PC <- Pop16() + 1`. -/
def handleRTS : Handler := fun _ s => .ok (s.pop16.2.setPC (s.pop16.1 + 1))

/-- `RTS`, opcode 0x60, R273. -/
def execRts (s : State) : Result :=
  perform .rts handleRTS s
/-- The return from interrupt (R274): `DecodeStatus(Pop()); PC <- Pop16()`, with no adjustment of the address. -/
def returnFromInterrupt (s : State) : State :=
  let s' := s.pop.2.setFlags (decodeStatus s.pop.1)
  s'.pop16.2.setPC s'.pop16.1

/-- RTI (R274). -/
def handleRTI : Handler := fun _ s => .ok (returnFromInterrupt s)

/-- `RTI`, opcode 0x40, R274. -/
def execRti (s : State) : Result :=
  perform .rti handleRTI s
/-! ## Conditional branches -/

/-- `Branch(cond, ins)` (R270): if taken, the displacement byte is sign-extended and added to the advanced PC. -/
def branch (cond : Bool) (ins : InstrRecord) (s : State) : State :=
  if cond then s.setPC (s.pc + (loByte ins.arg).signExtend 16) else s

/-- BCC (R275). -/
def handleBCC : Handler := fun ins s => .ok (branch (!s.flags.c) ins s)

/-- `BCC label`, opcode 0x90, R275. -/
def execBcc (disp : Byte) (s : State) : Result :=
  perform (.bcc disp) handleBCC s
/-- BCS (R276). -/
def handleBCS : Handler := fun ins s => .ok (branch s.flags.c ins s)

/-- `BCS label`, opcode 0xB0, R276. -/
def execBcs (disp : Byte) (s : State) : Result :=
  perform (.bcs disp) handleBCS s
/-- BEQ (R277). -/
def handleBEQ : Handler := fun ins s => .ok (branch s.flags.z ins s)

/-- `BEQ label`, opcode 0xF0, R277. -/
def execBeq (disp : Byte) (s : State) : Result :=
  perform (.beq disp) handleBEQ s
/-- BNE (R278). -/
def handleBNE : Handler := fun ins s => .ok (branch (!s.flags.z) ins s)

/-- `BNE label`, opcode 0xD0, R278. -/
def execBne (disp : Byte) (s : State) : Result :=
  perform (.bne disp) handleBNE s
/-- BMI (R279). -/
def handleBMI : Handler := fun ins s => .ok (branch s.flags.n ins s)

/-- `BMI label`, opcode 0x30, R279. -/
def execBmi (disp : Byte) (s : State) : Result :=
  perform (.bmi disp) handleBMI s
/-- BPL (R280). -/
def handleBPL : Handler := fun ins s => .ok (branch (!s.flags.n) ins s)

/-- `BPL label`, opcode 0x10, R280. -/
def execBpl (disp : Byte) (s : State) : Result :=
  perform (.bpl disp) handleBPL s
/-- BVC (R281). -/
def handleBVC : Handler := fun ins s => .ok (branch (!s.flags.v) ins s)

/-- `BVC label`, opcode 0x50, R281. -/
def execBvc (disp : Byte) (s : State) : Result :=
  perform (.bvc disp) handleBVC s
/-- BVS (R282). -/
def handleBVS : Handler := fun ins s => .ok (branch s.flags.v ins s)

/-- `BVS label`, opcode 0x70, R282. -/
def execBvs (disp : Byte) (s : State) : Result :=
  perform (.bvs disp) handleBVS s
/-! ## No operation -/

/-- NOP (R283): the handler changes nothing. -/
def handleNOP : Handler := fun _ s => .ok s

/-- `NOP`, opcode 0xEA, R283. -/
def execNop (s : State) : Result :=
  perform .nop handleNOP s
end Sys2Proof.Machine
end

