-- ==== Sys2Proof/Machine/LoadStoreTransfer.lean ====
section
/-! DEFINITION. Loads, stores and register transfers (42_ref_load_store_transfer.md R200 to R212): for each operation its
reference handler, then one meaning per opcode-table row. A handler runs with PC already advanced and touches only
what its rule names (R200). General knowledge adopted by the spec's decision D13 (log 6). -/

namespace Sys2Proof.Machine

/-! ## Loads -/

/-- LDA (R201): `A <- OperandRead; SetZN(A)`. -/
def handleLDA : Handler := fun ins s =>
  let v := operandRead ins s
  .ok ((s.setA v).setZN v)

/-- `LDA #$nn`, opcode 0xA9, R201. -/
def execLdaImm (imm : Byte) (s : State) : Result :=
  perform (.ldaImm imm) handleLDA s

/-- `LDA $nn`, opcode 0xA5, R201. -/
def execLdaZp (zp : Byte) (s : State) : Result :=
  perform (.ldaZp zp) handleLDA s

/-- `LDA $nn,X`, opcode 0xB5, R201. -/
def execLdaZpx (zp : Byte) (s : State) : Result :=
  perform (.ldaZpx zp) handleLDA s

/-- `LDA $nnnn`, opcode 0xAD, R201. -/
def execLdaAbs (addr : Word) (s : State) : Result :=
  perform (.ldaAbs addr) handleLDA s

/-- `LDA $nnnn,X`, opcode 0xBD, R201. -/
def execLdaAbx (addr : Word) (s : State) : Result :=
  perform (.ldaAbx addr) handleLDA s

/-- `LDA $nnnn,Y`, opcode 0xB9, R201. -/
def execLdaAby (addr : Word) (s : State) : Result :=
  perform (.ldaAby addr) handleLDA s

/-- `LDA ($nn,X)`, opcode 0xA1, R201. -/
def execLdaIzx (zp : Byte) (s : State) : Result :=
  perform (.ldaIzx zp) handleLDA s

/-- `LDA ($nn),Y`, opcode 0xB1, R201. -/
def execLdaIzy (zp : Byte) (s : State) : Result :=
  perform (.ldaIzy zp) handleLDA s
/-- LDX (R202): `X <- OperandRead; SetZN(X)`. -/
def handleLDX : Handler := fun ins s =>
  let v := operandRead ins s
  .ok ((s.setX v).setZN v)

/-- `LDX #$nn`, opcode 0xA2, R202. -/
def execLdxImm (imm : Byte) (s : State) : Result :=
  perform (.ldxImm imm) handleLDX s

/-- `LDX $nn`, opcode 0xA6, R202. -/
def execLdxZp (zp : Byte) (s : State) : Result :=
  perform (.ldxZp zp) handleLDX s

/-- `LDX $nn,Y`, opcode 0xB6, R202. -/
def execLdxZpy (zp : Byte) (s : State) : Result :=
  perform (.ldxZpy zp) handleLDX s

/-- `LDX $nnnn`, opcode 0xAE, R202. -/
def execLdxAbs (addr : Word) (s : State) : Result :=
  perform (.ldxAbs addr) handleLDX s

/-- `LDX $nnnn,Y`, opcode 0xBE, R202. -/
def execLdxAby (addr : Word) (s : State) : Result :=
  perform (.ldxAby addr) handleLDX s
/-- LDY (R203): `Y <- OperandRead; SetZN(Y)`. -/
def handleLDY : Handler := fun ins s =>
  let v := operandRead ins s
  .ok ((s.setY v).setZN v)

/-- `LDY #$nn`, opcode 0xA0, R203. -/
def execLdyImm (imm : Byte) (s : State) : Result :=
  perform (.ldyImm imm) handleLDY s

/-- `LDY $nn`, opcode 0xA4, R203. -/
def execLdyZp (zp : Byte) (s : State) : Result :=
  perform (.ldyZp zp) handleLDY s

/-- `LDY $nn,X`, opcode 0xB4, R203. -/
def execLdyZpx (zp : Byte) (s : State) : Result :=
  perform (.ldyZpx zp) handleLDY s

/-- `LDY $nnnn`, opcode 0xAC, R203. -/
def execLdyAbs (addr : Word) (s : State) : Result :=
  perform (.ldyAbs addr) handleLDY s

/-- `LDY $nnnn,X`, opcode 0xBC, R203. -/
def execLdyAbx (addr : Word) (s : State) : Result :=
  perform (.ldyAbx addr) handleLDY s
/-! ## Stores -/

/-- STA (R204): `OperandWrite(A)`, no flag. -/
def handleSTA : Handler := fun ins s => .ok (operandWrite ins s.a s)

/-- `STA $nn`, opcode 0x85, R204. -/
def execStaZp (zp : Byte) (s : State) : Result :=
  perform (.staZp zp) handleSTA s

/-- `STA $nn,X`, opcode 0x95, R204. -/
def execStaZpx (zp : Byte) (s : State) : Result :=
  perform (.staZpx zp) handleSTA s

/-- `STA $nnnn`, opcode 0x8D, R204. -/
def execStaAbs (addr : Word) (s : State) : Result :=
  perform (.staAbs addr) handleSTA s

/-- `STA $nnnn,X`, opcode 0x9D, R204. -/
def execStaAbx (addr : Word) (s : State) : Result :=
  perform (.staAbx addr) handleSTA s

/-- `STA $nnnn,Y`, opcode 0x99, R204. -/
def execStaAby (addr : Word) (s : State) : Result :=
  perform (.staAby addr) handleSTA s

/-- `STA ($nn,X)`, opcode 0x81, R204. -/
def execStaIzx (zp : Byte) (s : State) : Result :=
  perform (.staIzx zp) handleSTA s

/-- `STA ($nn),Y`, opcode 0x91, R204. -/
def execStaIzy (zp : Byte) (s : State) : Result :=
  perform (.staIzy zp) handleSTA s
/-- STX (R205): `OperandWrite(X)`, no flag. -/
def handleSTX : Handler := fun ins s => .ok (operandWrite ins s.x s)

/-- `STX $nn`, opcode 0x86, R205. -/
def execStxZp (zp : Byte) (s : State) : Result :=
  perform (.stxZp zp) handleSTX s

/-- `STX $nn,Y`, opcode 0x96, R205. -/
def execStxZpy (zp : Byte) (s : State) : Result :=
  perform (.stxZpy zp) handleSTX s

/-- `STX $nnnn`, opcode 0x8E, R205. -/
def execStxAbs (addr : Word) (s : State) : Result :=
  perform (.stxAbs addr) handleSTX s
/-- STY (R206): `OperandWrite(Y)`, no flag. -/
def handleSTY : Handler := fun ins s => .ok (operandWrite ins s.y s)

/-- `STY $nn`, opcode 0x84, R206. -/
def execStyZp (zp : Byte) (s : State) : Result :=
  perform (.styZp zp) handleSTY s

/-- `STY $nn,X`, opcode 0x94, R206. -/
def execStyZpx (zp : Byte) (s : State) : Result :=
  perform (.styZpx zp) handleSTY s

/-- `STY $nnnn`, opcode 0x8C, R206. -/
def execStyAbs (addr : Word) (s : State) : Result :=
  perform (.styAbs addr) handleSTY s
/-! ## Register transfers -/

/-- TAX (R207): `X <- A; SetZN(X)`. -/
def handleTAX : Handler := fun _ s => .ok ((s.setX s.a).setZN s.a)

/-- `TAX`, opcode 0xAA, R207. -/
def execTax (s : State) : Result :=
  perform .tax handleTAX s
/-- TAY (R208): `Y <- A; SetZN(Y)`. -/
def handleTAY : Handler := fun _ s => .ok ((s.setY s.a).setZN s.a)

/-- `TAY`, opcode 0xA8, R208. -/
def execTay (s : State) : Result :=
  perform .tay handleTAY s
/-- TXA (R209): `A <- X; SetZN(A)`. -/
def handleTXA : Handler := fun _ s => .ok ((s.setA s.x).setZN s.x)

/-- `TXA`, opcode 0x8A, R209. -/
def execTxa (s : State) : Result :=
  perform .txa handleTXA s
/-- TYA (R210): `A <- Y; SetZN(A)`. -/
def handleTYA : Handler := fun _ s => .ok ((s.setA s.y).setZN s.y)

/-- `TYA`, opcode 0x98, R210. -/
def execTya (s : State) : Result :=
  perform .tya handleTYA s
/-- TSX (R211): `X <- SP; SetZN(X)`. -/
def handleTSX : Handler := fun _ s => .ok ((s.setX s.sp).setZN s.sp)

/-- `TSX`, opcode 0xBA, R211. -/
def execTsx (s : State) : Result :=
  perform .tsx handleTSX s
/-- TXS (R212): `SP <- X`, the one transfer that sets no flag. -/
def handleTXS : Handler := fun _ s => .ok (s.setSP s.x)

/-- `TXS`, opcode 0x9A, R212. -/
def execTxs (s : State) : Result :=
  perform .txs handleTXS s
end Sys2Proof.Machine
end

