-- ==== Sys2Proof/Machine/StackFlags.lean ====
section
/-! DEFINITION. Stack and flag operations (45_ref_stack_flags.md R300 to R311): for each operation its reference handler,
then one meaning per opcode-table row. General knowledge adopted by the spec's decision D13 (log 6). -/

namespace Sys2Proof.Machine

/-! ## Stack operations -/

/-- PHA (R301): `Push(A)`. -/
def handlePHA : Handler := fun _ s => .ok (s.push s.a)

/-- `PHA`, opcode 0x48, R301. -/
def execPha (s : State) : Result :=
  perform .pha handlePHA s
/-- PHP (R302): `Push(EncodeStatus(1))`, the context bit set. -/
def handlePHP : Handler := fun _ s => .ok (s.push (encodeStatus s.flags true))

/-- `PHP`, opcode 0x08, R302. -/
def execPhp (s : State) : Result :=
  perform .php handlePHP s
/-- PLA (R303): `A <- Pop(); SetZN(A)`. -/
def handlePLA : Handler := fun _ s => .ok ((s.pop.2.setA s.pop.1).setZN s.pop.1)

/-- `PLA`, opcode 0x68, R303. -/
def execPla (s : State) : Result :=
  perform .pla handlePLA s
/-- PLP (R304): `DecodeStatus(Pop())`. -/
def handlePLP : Handler := fun _ s => .ok (s.pop.2.setFlags (decodeStatus s.pop.1))

/-- `PLP`, opcode 0x28, R304. -/
def execPlp (s : State) : Result :=
  perform .plp handlePLP s
/-! ## Flag operations -/

/-- CLC (R305). -/
def handleCLC : Handler := fun _ s => .ok (s.setC false)

/-- `CLC`, opcode 0x18, R305. -/
def execClc (s : State) : Result :=
  perform .clc handleCLC s
/-- SEC (R306). -/
def handleSEC : Handler := fun _ s => .ok (s.setC true)

/-- `SEC`, opcode 0x38, R306. -/
def execSec (s : State) : Result :=
  perform .sec handleSEC s
/-- CLI (R307). -/
def handleCLI : Handler := fun _ s => .ok (s.setI false)

/-- `CLI`, opcode 0x58, R307. -/
def execCli (s : State) : Result :=
  perform .cli handleCLI s
/-- SEI (R308). -/
def handleSEI : Handler := fun _ s => .ok (s.setI true)

/-- `SEI`, opcode 0x78, R308. -/
def execSei (s : State) : Result :=
  perform .sei handleSEI s
/-- CLD (R309). -/
def handleCLD : Handler := fun _ s => .ok (s.setD false)

/-- `CLD`, opcode 0xD8, R309. -/
def execCld (s : State) : Result :=
  perform .cld handleCLD s
/-- SED (R310). -/
def handleSED : Handler := fun _ s => .ok (s.setD true)

/-- `SED`, opcode 0xF8, R310. -/
def execSed (s : State) : Result :=
  perform .sed handleSED s
/-- CLV (R311). -/
def handleCLV : Handler := fun _ s => .ok (s.setV false)

/-- `CLV`, opcode 0xB8, R311. -/
def execClv (s : State) : Result :=
  perform .clv handleCLV s
end Sys2Proof.Machine
end

