-- ==== Sys2Proof/Machine/HandlerMap.lean ====
section
/-! DEFINITION. The reference handler map HANDLER (41_engine_step.md R175): one handler per operation identity of
the reference set, none for break, which the engine itself implements (R171). The handlers are general knowledge adopted by the spec's decision
D13 (log 6). -/

namespace Sys2Proof.Machine

/-- The reference handler map (41_engine_step.md R175, files 42_ to 45_). -/
def handlerOf : Op → Option Handler
  | .ADC => some handleADC
  | .AND => some handleAND
  | .ASL => some handleASL
  | .BCC => some handleBCC
  | .BCS => some handleBCS
  | .BEQ => some handleBEQ
  | .BIT => some handleBIT
  | .BMI => some handleBMI
  | .BNE => some handleBNE
  | .BPL => some handleBPL
  | .BRK => none
  | .BVC => some handleBVC
  | .BVS => some handleBVS
  | .CLC => some handleCLC
  | .CLD => some handleCLD
  | .CLI => some handleCLI
  | .CLV => some handleCLV
  | .CMP => some handleCMP
  | .CPX => some handleCPX
  | .CPY => some handleCPY
  | .DEC => some handleDEC
  | .DEX => some handleDEX
  | .DEY => some handleDEY
  | .EOR => some handleEOR
  | .INC => some handleINC
  | .INX => some handleINX
  | .INY => some handleINY
  | .JMP => some handleJMP
  | .JSR => some handleJSR
  | .LDA => some handleLDA
  | .LDX => some handleLDX
  | .LDY => some handleLDY
  | .LSR => some handleLSR
  | .NOP => some handleNOP
  | .ORA => some handleORA
  | .PHA => some handlePHA
  | .PHP => some handlePHP
  | .PLA => some handlePLA
  | .PLP => some handlePLP
  | .ROL => some handleROL
  | .ROR => some handleROR
  | .RTI => some handleRTI
  | .RTS => some handleRTS
  | .SBC => some handleSBC
  | .SEC => some handleSEC
  | .SED => some handleSED
  | .SEI => some handleSEI
  | .STA => some handleSTA
  | .STX => some handleSTX
  | .STY => some handleSTY
  | .TAX => some handleTAX
  | .TAY => some handleTAY
  | .TSX => some handleTSX
  | .TXA => some handleTXA
  | .TXS => some handleTXS
  | .TYA => some handleTYA
  | .other _ => none

/-- The reference inputs: the opcode table of 30_encoding.md R112 and the handlers of files 42_ to 45_ (00_scope.md R6, D12,
D13; log 5, log 6). -/
def EngineInputs.ref : EngineInputs := { optable := Sys2Proof.optable, handlers := handlerOf }

end Sys2Proof.Machine
end

