-- ==== Sys2Proof/Machine/Engine.lean ====
section
/-! DEFINITION. The execution engine (41_engine_step.md), twice: as the machine runs it, which decodes into `Instr` and calls
`exec` (the reference table and handlers), and as R160 and R183 write it, over any opcode table and any handler map; and
the debug hook. Obligations.StepIsEngineStep says that the two agree. -/

namespace Sys2Proof.Machine

/-- Steps 1 and 2 (41_engine_step.md R168 to R170): the opcode byte at PC, decoded with its operand bytes; an illegal
opcode faults, then a two-byte operand fetch at 0xFFFF under TOP_WRAP = fault (60_exceptions.md R335). Reading bytes the
format does not need changes nothing (20_memory.md R62). -/
def fetchDecode (s : State) : Except Fault Instr :=
  let opc := s.readByte s.pc
  match decodeBytes opc (s.readByte (s.pc + 1)) (s.readByte (s.pc + 2)) with
  | none => .error (.decode opc)
  | some i => if i.len == 3 && wordFaults s.cfg (s.pc + 1) then .error (.memory (s.pc + 1)) else .ok i

/-- One engine step: fetch, decode, execute (41_engine_step.md R160). -/
def fetchExecute (s : State) : Result :=
  match fetchDecode s with
  | .error f => .fault f
  | .ok i => exec i s

/-- One iteration of the run loop, which is also a bounded run of budget 1 (41_engine_step.md R183, R184): a halted engine
does nothing (R186); otherwise the engine is running, the sentinel test comes first, then the counter is spent and one
step executes (log 7). -/
def runIteration (s : State) : Result :=
  match s.es with
  | .halted => .next s
  | .idle | .running =>
    if s.pc = s.cfg.breakSentinel then .next (s.setStatus .halted)
    else fetchExecute (s.setStatus .running).spend

/-! The engine over any opcode table and any handler map (00_scope.md R6, R12). -/

/-- Lines 1 and 2 of the engine step: the opcode byte at PC, its table entry, resolution from memory, the instruction
record (41_engine_step.md R160, R168 to R170). -/
def decodeRecord (table : Byte → Option Entry) (s : State) : Except Fault InstrRecord :=
  match table (s.readByte s.pc) with
  | none => .error (.decode (s.readByte s.pc))
  | some e =>
    match resolve e.mode s.pc s with
    | .error f => .error f
    | .ok r => .ok (mkRecord e r)

/-- Lines 3 to 8 of the engine step, after `last <- ins`: the break test on the identity, PC, dispatch, handler, cycles
(41_engine_step.md R160, R171 to R182). -/
def executeRecord (handlers : Op → Option Handler) (ins : InstrRecord) (s : State) : Except Failure State :=
  if ins.op = .BRK then .ok (s.setStatus .halted)
  else
    let s := s.advance ins.len
    match handlers ins.op with
    | none => .error ⟨.dispatch ins.op, s⟩
    | some h =>
      match h ins s with
      | .error f => .error f
      | .ok t => .ok (t.charge ins)

/-- The lines of the engine step as 41_engine_step.md R160 writes them, with the state at the raising line where one of them
raises a fault (R161). -/
def engineLines (w : EngineInputs) (s : State) : Except Failure State :=
  match decodeRecord w.optable s with
  | .error f => .error ⟨f, s⟩
  | .ok ins => executeRecord w.handlers ins (s.setLast (some ins))

/-- The engine step (41_engine_step.md R160). It returns **halted** exactly where the break executed (R182); a fault is an
outcome without a state (60_exceptions.md R331; log 18). -/
def engineStep (w : EngineInputs) (s : State) : Result :=
  match engineLines w s with
  | .error f => .fault f.fault
  | .ok t => .next t

/-- The state at the raising line of an engine step that faults, nothing where it does not: nothing changed at a decode or
resolution fault, `last` written and PC advanced at a dispatch fault, and what the handler left, from there on, at a
handler's failure (60_exceptions.md R331, 70_reset_and_hazards.md R382 (d); log 18). -/
def stateAtFault (w : EngineInputs) (s : State) : Option State :=
  match engineLines w s with
  | .error f => some f.state
  | .ok _ => none

/-- One iteration of the run loop around `engineStep` (41_engine_step.md R183, R184, R186). -/
def loopIteration (w : EngineInputs) (s : State) : Result :=
  match s.es with
  | .halted => .next s
  | .idle | .running =>
    if s.pc = s.cfg.breakSentinel then .next (s.setStatus .halted)
    else engineStep w (s.setStatus .running).spend

/-- The debug hook's event: registers, flags and memory before any mutation, and the record (41_engine_step.md R172). -/
structure HookEvent where
  a     : Byte
  x     : Byte
  y     : Byte
  sp    : Byte
  pc    : Word
  flags : Flags
  mem   : Memory
  ins   : InstrRecord
  deriving DecidableEq, Repr

/-- `Hook(state, ins)` (41_engine_step.md R172). -/
def hook (s : State) (ins : InstrRecord) : HookEvent :=
  { a := s.a, x := s.x, y := s.y, sp := s.sp, pc := s.pc, flags := s.flags, mem := s.mem, ins := ins }

/-- The event one iteration of the run loop emits: one per decoded instruction, none where no instruction is decoded
(41_engine_step.md R172, R183). It observes and changes nothing (log 11). -/
def hookEvent (w : EngineInputs) (s : State) : Option HookEvent :=
  if s.es = .halted ∨ s.pc = s.cfg.breakSentinel then none
  else
    match decodeRecord w.optable s with
    | .error _ => none
    | .ok ins => some (hook s ins)

/-- A table word stored where the engine fetches its next instruction: at the cells that reads of PC, PC + 1 and PC + 2
use, every bit above `nbits` zero. A halted engine fetches nothing (R186), so it is set running (log 9). -/
def placeFetchWord (s : State) (nbits w : Nat) : State :=
  let put (t : State) (offset : Word) (k : Nat) : State :=
    t.writeByte (eff (s.pc + offset)) ((tableWordBytes nbits w).getD k 0)
  let t := put (put (put s 0 0) 1 1) 2 2
  match s.es with
  | .halted => t.setStatus .running
  | .idle | .running => t

end Sys2Proof.Machine
end

