-- ==== Sys2Proof/Machine/Step.lean ====
section
/-! DEFINITION. The step of the machine and the placing of an instruction for it. -/

namespace Sys2Proof.Machine

/-- One step of the machine: one iteration of the run loop (41_engine_step.md R183, R184; log 7). -/
def step (s : State) : Host.Outcome State Fault Refusal := runIteration s

/-- The state with a table word stored where `step` fetches its next instruction (log 9). -/
def State.withFetchWord (s : State) (nbits w : Nat) : State := placeFetchWord s nbits w

end Sys2Proof.Machine
end

