-- ==== Sys2Proof/Machine/HandlerProgram.lean ====
section
/-! DEFINITION. What a handler may touch (41_engine_step.md R178), as a language: a program over the primitives a handler
has, and what it does. Nothing in the language names the engine status, the pending counter, the last-instruction slot, the
opcode table, a memory cell other than through the bus, or an address constant (log 37). -/

namespace Sys2Proof.Machine

/-- The byte registers (10_state.md R21 to R23, R42). -/
inductive Register where
  | A
  | X
  | Y
  | SP
  deriving DecidableEq, Repr

/-- The byte a register holds. -/
def State.register (s : State) : Register → Byte
  | .A => s.a
  | .X => s.x
  | .Y => s.y
  | .SP => s.sp

/-- `r <- v`. -/
def State.setRegister (s : State) (r : Register) (v : Byte) : State :=
  match r with
  | .A => s.setA v
  | .X => s.setX v
  | .Y => s.setY v
  | .SP => s.setSP v

/-- A program over a handler's primitives (41_engine_step.md R178; 00_scope.md R10). A primitive that reads hands its value
to the rest of the program. SetZN, EncodeStatus and DecodeStatus are reads and writes of the six flags. -/
inductive HandlerProgram where
  /-- return success (41_engine_step.md R175) -/
  | done
  /-- return a structural failure: its subsystem and what it reports (R179) -/
  | fail (kind : Subsystem) (info : List Nat)
  | get (r : Register) (rest : Byte → HandlerProgram)
  | put (r : Register) (v : Byte) (rest : HandlerProgram)
  | getPC (rest : Word → HandlerProgram)
  | putPC (t : Word) (rest : HandlerProgram)
  | getFlags (rest : Flags → HandlerProgram)
  | putFlags (f : Flags) (rest : HandlerProgram)
  | memRead (addr : Word) (rest : Byte → HandlerProgram)
  | memWrite (addr : Word) (v : Byte) (rest : HandlerProgram)
  | memRead16 (pos : Word) (rest : Word → HandlerProgram)
  | memWrite16 (pos w : Word) (rest : HandlerProgram)
  | push (v : Byte) (rest : HandlerProgram)
  | pop (rest : Byte → HandlerProgram)
  | push16 (w : Word) (rest : HandlerProgram)
  | pop16 (rest : Word → HandlerProgram)
  | readOperand (rest : Byte → HandlerProgram)
  | writeOperand (v : Byte) (rest : HandlerProgram)

namespace HandlerProgram

/-- What a program does for an instruction, one primitive after another (20_memory.md R85). A failure stops it, and what it
did before stands (60_exceptions.md R331). -/
def run : HandlerProgram → Handler
  | .done, _, s => .ok s
  | .fail kind info, _, s => .error ⟨.handler kind info, s⟩
  | .get r rest, ins, s => (rest (s.register r)).run ins s
  | .put r v rest, ins, s => rest.run ins (s.setRegister r v)
  | .getPC rest, ins, s => (rest s.pc).run ins s
  | .putPC t rest, ins, s => rest.run ins (s.setPC t)
  | .getFlags rest, ins, s => (rest s.flags).run ins s
  | .putFlags f rest, ins, s => rest.run ins (s.setFlags f)
  | .memRead addr rest, ins, s => (rest (s.readByte addr)).run ins s
  | .memWrite addr v rest, ins, s => rest.run ins (s.writeByte addr v)
  | .memRead16 pos rest, ins, s =>
    match s.readWord pos with
    | .error f => .error ⟨f, s⟩
    | .ok w => (rest w).run ins s
  | .memWrite16 pos w rest, ins, s =>
    match s.writeWord pos w with
    | .error f => .error ⟨f, s⟩
    | .ok t => rest.run ins t
  | .push v rest, ins, s => rest.run ins (s.push v)
  | .pop rest, ins, s => (rest s.pop.1).run ins s.pop.2
  | .push16 w rest, ins, s => rest.run ins (s.push16 w)
  | .pop16 rest, ins, s => (rest s.pop16.1).run ins s.pop16.2
  | .readOperand rest, ins, s => (rest (operandRead ins s)).run ins s
  | .writeOperand v rest, ins, s => rest.run ins (operandWrite ins v s)

/-- A program that writes PC nowhere. -/
def KeepsPC : HandlerProgram → Prop
  | .done => True
  | .fail _ _ => True
  | .get _ rest => ∀ v, (rest v).KeepsPC
  | .put _ _ rest => rest.KeepsPC
  | .getPC rest => ∀ t, (rest t).KeepsPC
  | .putPC _ _ => False
  | .getFlags rest => ∀ f, (rest f).KeepsPC
  | .putFlags _ rest => rest.KeepsPC
  | .memRead _ rest => ∀ v, (rest v).KeepsPC
  | .memWrite _ _ rest => rest.KeepsPC
  | .memRead16 _ rest => ∀ w, (rest w).KeepsPC
  | .memWrite16 _ _ rest => rest.KeepsPC
  | .push _ rest => rest.KeepsPC
  | .pop rest => ∀ v, (rest v).KeepsPC
  | .push16 _ rest => rest.KeepsPC
  | .pop16 rest => ∀ w, (rest w).KeepsPC
  | .readOperand rest => ∀ v, (rest v).KeepsPC
  | .writeOperand _ rest => rest.KeepsPC

/-! ## Primitives made of these -/

/-- `SetZN(r)` (10_state.md R33). -/
def setZN (r : Byte) (rest : HandlerProgram) : HandlerProgram := .getFlags fun f => .putFlags (f.withZN r) rest

/-- `C <- b`. -/
def setC (b : Bool) (rest : HandlerProgram) : HandlerProgram := .getFlags fun f => .putFlags { f with c := b } rest

/-- `V <- b`. -/
def setV (b : Bool) (rest : HandlerProgram) : HandlerProgram := .getFlags fun f => .putFlags { f with v := b } rest

/-- `I <- b`. -/
def setI (b : Bool) (rest : HandlerProgram) : HandlerProgram := .getFlags fun f => .putFlags { f with i := b } rest

/-- `D <- b`. -/
def setD (b : Bool) (rest : HandlerProgram) : HandlerProgram := .getFlags fun f => .putFlags { f with d := b } rest

end HandlerProgram

/-- A handler that stays in its reach (41_engine_step.md R178): it does what a program over its primitives does. -/
def Handler.InReach (h : Handler) : Prop :=
  ∃ p : InstrRecord → HandlerProgram, ∀ (ins : InstrRecord) (s : State), h ins s = (p ins).run ins s

end Sys2Proof.Machine
end

