-- ==== Sys2Proof/Machine/ReferencePrograms.lean ====
section
/-! DEFINITION. The reference handlers as programs over a handler's primitives, line by line as files 42_ to 45_ write them
(D13, log 6). The machine runs the handlers of the family files; Obligations.HandlersSucceedInReach says that the two
agree. -/

namespace Sys2Proof.Machine

open HandlerProgram

/-- `r <- OperandRead(ins); SetZN(r)` (42_ref_load_store_transfer.md R201 to R203). -/
def loadProgram (r : Register) : HandlerProgram := .readOperand fun v => .put r v (setZN v .done)

/-- `OperandWrite(ins, r)` (42_ref_load_store_transfer.md R204 to R206). -/
def storeProgram (r : Register) : HandlerProgram := .get r fun v => .writeOperand v .done

/-- `to <- from; SetZN(to)` (42_ref_load_store_transfer.md R207 to R211). -/
def transferProgram (source target : Register) : HandlerProgram :=
  .get source fun v => .put target v (setZN v .done)

/-- The addition of `m` with carry into A (43_ref_arith_logic.md R234, R235). -/
def addProgram (m : Byte) : HandlerProgram :=
  .get .A fun a => .getFlags fun f =>
    let s := a.toNat + m.toNat + f.c.toNat
    let r := BitVec.ofNat 8 (s % 256)
    setV (decide ((a ^^^ r) &&& (m ^^^ r) &&& 0x80 ≠ 0)) (setC (decide (s > 255)) (.put .A r (setZN r .done)))

/-- `A <- A op OperandRead(ins); SetZN(A)` (43_ref_arith_logic.md R236 to R238). -/
def logicProgram (op : Byte → Byte → Byte) : HandlerProgram :=
  .readOperand fun m => .get .A fun a => .put .A (op a m) (setZN (op a m) .done)

/-- Compare of a register (43_ref_arith_logic.md R239 to R241). -/
def compareProgram (r : Register) : HandlerProgram :=
  .readOperand fun m => .get r fun v => setC (decide (m.toNat ≤ v.toNat)) (setZN (v - m) .done)

/-- BIT (43_ref_arith_logic.md R242). -/
def bitProgram : HandlerProgram :=
  .readOperand fun m => .get .A fun a => .getFlags fun f =>
    .putFlags { f with z := decide (a &&& m = 0), n := m.getLsbD 7, v := m.getLsbD 6 } .done

/-- INC and DEC (43_ref_arith_logic.md R243, R244). -/
def stepOperandProgram (change : Byte → Byte) : HandlerProgram :=
  .readOperand fun v => .writeOperand (change v) (setZN (change v) .done)

/-- INX, INY, DEX, DEY (43_ref_arith_logic.md R245 to R248). -/
def stepRegisterProgram (r : Register) (change : Byte → Byte) : HandlerProgram :=
  .get r fun v => .put r (change v) (setZN (change v) .done)

/-- ASL, LSR, ROL, ROR, with the result and the new C of the operand and the old C (43_ref_arith_logic.md R249 to R252). -/
def shiftProgram (result : Byte → Bool → Byte) (out : Byte → Bool) : HandlerProgram :=
  .readOperand fun v => .getFlags fun f =>
    setC (out v) (.writeOperand (result v f.c) (setZN (result v f.c) .done))

/-- `PC <- a` where the operand has an address (44_ref_control_flow.md R271, R272; log 25). -/
def jumpProgram (ins : InstrRecord) : HandlerProgram :=
  match ins.loc with
  | .addr a => .putPC a .done
  | .none => .done

/-- `Branch(cond, ins)` (44_ref_control_flow.md R270). -/
def branchProgram (cond : Flags → Bool) (ins : InstrRecord) : HandlerProgram :=
  .getFlags fun f =>
    if cond f then .getPC fun pc => .putPC (pc + (loByte ins.arg).signExtend 16) .done else .done

/-- The program of each operation identity of the reference set but break (files 42_ to 45_). -/
def programOf : Op → Option (InstrRecord → HandlerProgram)
  | .LDA => some fun _ => loadProgram .A
  | .LDX => some fun _ => loadProgram .X
  | .LDY => some fun _ => loadProgram .Y
  | .STA => some fun _ => storeProgram .A
  | .STX => some fun _ => storeProgram .X
  | .STY => some fun _ => storeProgram .Y
  | .TAX => some fun _ => transferProgram .A .X
  | .TAY => some fun _ => transferProgram .A .Y
  | .TXA => some fun _ => transferProgram .X .A
  | .TYA => some fun _ => transferProgram .Y .A
  | .TSX => some fun _ => transferProgram .SP .X
  | .TXS => some fun _ => .get .X fun v => .put .SP v .done
  | .ADC => some fun _ => .readOperand fun m => addProgram m
  | .SBC => some fun _ => .readOperand fun m => addProgram (m ^^^ 0xFF)
  | .AND => some fun _ => logicProgram fun a m => a &&& m
  | .ORA => some fun _ => logicProgram fun a m => a ||| m
  | .EOR => some fun _ => logicProgram fun a m => a ^^^ m
  | .CMP => some fun _ => compareProgram .A
  | .CPX => some fun _ => compareProgram .X
  | .CPY => some fun _ => compareProgram .Y
  | .BIT => some fun _ => bitProgram
  | .INC => some fun _ => stepOperandProgram fun v => v + 1
  | .DEC => some fun _ => stepOperandProgram fun v => v - 1
  | .INX => some fun _ => stepRegisterProgram .X fun v => v + 1
  | .INY => some fun _ => stepRegisterProgram .Y fun v => v + 1
  | .DEX => some fun _ => stepRegisterProgram .X fun v => v - 1
  | .DEY => some fun _ => stepRegisterProgram .Y fun v => v - 1
  | .ASL => some fun _ => shiftProgram (fun v _ => BitVec.ofNat 8 (v.toNat * 2 % 256)) fun v => v.getLsbD 7
  | .LSR => some fun _ => shiftProgram (fun v _ => BitVec.ofNat 8 (v.toNat / 2)) fun v => v.getLsbD 0
  | .ROL => some fun _ =>
    shiftProgram (fun v c => BitVec.ofNat 8 (v.toNat * 2 % 256 + c.toNat)) fun v => v.getLsbD 7
  | .ROR => some fun _ => shiftProgram (fun v c => BitVec.ofNat 8 (v.toNat / 2 + 128 * c.toNat)) fun v => v.getLsbD 0
  | .JMP => some jumpProgram
  | .JSR => some fun ins => .getPC fun pc => .push16 (pc - 1) (jumpProgram ins)
  | .RTS => some fun _ => .pop16 fun w => .putPC (w + 1) .done
  | .RTI => some fun _ => .pop fun b => .putFlags (decodeStatus b) (.pop16 fun w => .putPC w .done)
  | .BCC => some (branchProgram fun f => !f.c)
  | .BCS => some (branchProgram fun f => f.c)
  | .BEQ => some (branchProgram fun f => f.z)
  | .BNE => some (branchProgram fun f => !f.z)
  | .BMI => some (branchProgram fun f => f.n)
  | .BPL => some (branchProgram fun f => !f.n)
  | .BVC => some (branchProgram fun f => !f.v)
  | .BVS => some (branchProgram fun f => f.v)
  | .NOP => some fun _ => .done
  | .PHA => some fun _ => .get .A fun v => .push v .done
  | .PHP => some fun _ => .getFlags fun f => .push (encodeStatus f true) .done
  | .PLA => some fun _ => .pop fun v => .put .A v (setZN v .done)
  | .PLP => some fun _ => .pop fun b => .putFlags (decodeStatus b) .done
  | .CLC => some fun _ => setC false .done
  | .SEC => some fun _ => setC true .done
  | .CLI => some fun _ => setI false .done
  | .SEI => some fun _ => setI true .done
  | .CLD => some fun _ => setD false .done
  | .SED => some fun _ => setD true .done
  | .CLV => some fun _ => setV false .done
  | .BRK => none
  | .other _ => none

end Sys2Proof.Machine
end

