-- ==== Sys2Proof/Machine/Commands.lean ====
section
/-! DEFINITION. The host's commands (00_scope.md R12): power-on, reset, the two program loads, the bounded and the
unbounded run, direct access to state, and the trace of the debug hook. What runs instructions takes the engine's inputs, the
opcode table and the handlers, as an argument (R6). A command lands between steps, never inside one
(41_engine_step.md R161; log 10). -/

namespace Sys2Proof.Machine

/-- The register values the spec leaves unspecified at power-on: the parameter INIT (10_state.md R46, D4). -/
structure Init where
  a     : Byte
  x     : Byte
  y     : Byte
  sp    : Byte
  pc    : Word
  flags : Flags
  deriving DecidableEq, Repr

/-- Power-on, the creation of the engine (70_reset_and_hazards.md R360, 10_state.md R46). -/
def powerOn (cfg : Config) (init : Init) : State where
  a       := init.a
  x       := init.x
  y       := init.y
  sp      := init.sp
  pc      := init.pc
  flags   := init.flags
  mem     := []
  es      := .idle
  pending := 0
  last    := none
  cfg     := cfg

/-- The reset operation (70_reset_and_hazards.md R361 to R365): `last` cleared, X and Y zeroed, PC from the reset vector,
status idle; nothing else. -/
def resetOperation (s : State) : Result :=
  match s.readWord s.cfg.resetVector with
  | .error f => .fault f
  | .ok t => .next (((((s.setLast none).setX 0).setY 0).setPC t).setStatus .idle)

/-- `Copy(b, n)`: the bytes stored into consecutive cells from a base, unmirrored (70_reset_and_hazards.md R371). -/
def copyFrom : Word → List Byte → State → State
  | _, [], s => s
  | base, b :: rest, s => copyFrom (base + 1) rest (s.writeByte base b)

/-- The part both loads share (70_reset_and_hazards.md R371, R373, R374; 60_exceptions.md R333): the bounds check before
anything is written, the copy, and PRG_BASE written at a vector. -/
def loadAt (vector : Word) (bytes : List Byte) (s : State) : Except Fault State :=
  if 65536 < s.cfg.prgBase.toNat + bytes.length then .error (.load s.cfg.prgBase bytes.length)
  else (copyFrom s.cfg.prgBase bytes s).writeWord vector s.cfg.prgBase

/-- Production load: copy, reset vector, reset (70_reset_and_hazards.md R373). -/
def loadProduction (bytes : List Byte) (s : State) : Result :=
  match loadAt s.cfg.resetVector bytes s with
  | .error f => .fault f
  | .ok t => resetOperation t

/-- Test load: copy, test vector, no reset (70_reset_and_hazards.md R374). -/
def loadTest (bytes : List Byte) (s : State) : Result :=
  match loadAt s.cfg.testVector bytes s with
  | .error f => .fault f
  | .ok t => .next t

/-- The loop of the bounded run with `n` steps of budget left (41_engine_step.md R184): it stops on halted, on the
sentinel (which halts), on a fault, and when the budget is exhausted (status unchanged). -/
def boundedLoop (w : EngineInputs) : Nat → State → Result
  | 0, s => .next s
  | n + 1, s =>
    if s.es = .halted then .next s
    else if s.pc = s.cfg.breakSentinel then .next (s.setStatus .halted)
    else
      match engineStep w s.spend with
      | .next t => boundedLoop w n t
      | .fault f => .fault f
      | .refused r => .refused r

/-- `RunBounded(N)` (41_engine_step.md R184): a halted engine does nothing (R186); any other is running from here on. The call returns
**halted** exactly where the status it leaves is halted. -/
def runBounded (w : EngineInputs) (n : Nat) (s : State) : Result :=
  if s.es = .halted then .next s else boundedLoop w n (s.setStatus .running)

/-- `Run()` returns with state `t` (41_engine_step.md R183, R185): some budget is enough for the loop to end halted. A
run that never ends returns nothing (log 20). -/
def RunReturns (w : EngineInputs) (s t : State) : Prop := ∃ n, runBounded w n s = .next t ∧ t.es = .halted

/-- `Run()` ends in a fault (41_engine_step.md R185). -/
def RunFaults (w : EngineInputs) (s : State) (f : Fault) : Prop := ∃ n, runBounded w n s = .fault f

/-- The host's commands that return (00_scope.md R12, 70_reset_and_hazards.md R376). -/
inductive HostCommand where
  | reset
  | loadProduction (bytes : List Byte)
  | loadTest (bytes : List Byte)
  | runBounded (n : Nat)
  | writeA (v : Byte)
  | writeX (v : Byte)
  | writeY (v : Byte)
  | writeSP (v : Byte)
  | writePC (t : Word)
  | writeFlags (f : Flags)
  | writeMemory (addr : Word) (v : Byte)
  deriving DecidableEq, Repr

/-- What a host command does to the state. A host read of memory is `readByte`, mirrored (70_reset_and_hazards.md R376). -/
def command (w : EngineInputs) (c : HostCommand) (s : State) : Result :=
  match c with
  | .reset => resetOperation s
  | .loadProduction bytes => loadProduction bytes s
  | .loadTest bytes => loadTest bytes s
  | .runBounded n => runBounded w n s
  | .writeA v => .next (s.setA v)
  | .writeX v => .next (s.setX v)
  | .writeY v => .next (s.setY v)
  | .writeSP v => .next (s.setSP v)
  | .writePC t => .next (s.setPC t)
  | .writeFlags f => .next (s.setFlags f)
  | .writeMemory addr v => .next (s.writeByte addr v)

/-- The trace of the next `n` iterations of the run loop: the debug hook's events in order (41_engine_step.md R172). -/
def trace (w : EngineInputs) : Nat → State → List HookEvent
  | 0, _ => []
  | n + 1, s =>
    (hookEvent w s).toList ++
      match loopIteration w s with
      | .next t => trace w n t
      | .fault _ => []
      | .refused _ => []

end Sys2Proof.Machine
end

