-- ==== Sys2Proof/WellFormed.lean ====
section
/-! DEFINITION. Well-formedness checks. An `Instr` needs none: its operand types carry the widths and every operand value
is legal (30_encoding.md R114). What can be ill-formed is a table entry (R108, 00_scope.md R7 (e)), an instruction
record (10_state.md R40), a configuration and the program loaded under it (00_scope.md R7 (a) to (d)). -/

namespace Sys2Proof

/-- The modes whose indexing can cross a page (40_addressing_modes.md R145). -/
def Mode.indexed16 : Mode → Bool
  | .ABX | .ABY | .IZY => true
  | .IMP | .ACC | .IMM | .ZP | .ZPX | .ZPY | .ABS | .IND | .IZX | .REL => false

/-- The modes whose operand location is "no address" (40_addressing_modes.md R132 to R134, R144). -/
def Mode.noAddress : Mode → Bool
  | .IMP | .ACC | .IMM | .REL => true
  | .ZP | .ZPX | .ZPY | .ABS | .ABX | .ABY | .IND | .IZX | .IZY => false

/-- A table entry: base cycle count at least 1 (00_scope.md R7 (e)), and the extra-cycle flag declared only where an
index can cross a page (30_encoding.md R112). -/
def Entry.wellFormed (e : Entry) : Bool :=
  decide (1 ≤ e.cyc) && (!e.xflag || e.mode.indexed16)

/-- An instruction record (10_state.md R40): base cycles at least 1, the length of its mode (30_encoding.md R109), an
address exactly in the modes that have one, a raw argument no wider than its operand bytes (40_addressing_modes.md
R131), and a crossing only where indexing can cross (R145). -/
def InstrRecord.wellFormed (r : InstrRecord) : Bool :=
  decide (1 ≤ r.cyc) && r.len == r.mode.len && (r.loc == .none) == r.mode.noAddress &&
    (r.len != 1 || r.arg == 0) && (r.len != 2 || decide (r.arg < 256)) && (!r.crossed || r.mode.indexed16)

/-- An address whose cell a write reaches and a read returns: outside [0x0800, 0x2000) (20_memory.md R64). -/
def plainAddress (a : Word) : Bool := decide (a < 0x0800) || decide (0x2000 ≤ a)

/-- TOP_WRAP is decided: every `Config` names one of the two policies (20_memory.md R68, D2; log 35). -/
def Config.topWrapDecided (c : Config) : Bool := c.topWrap == .wrap || c.topWrap == .fault

/-- The constraints of 00_scope.md R7 on the configuration alone: (a) the stack base's low byte is 0, (b) the stack page
and both reset-vector cells are plain addresses, (c) the reset vector is not 0xFFFF unless TOP_WRAP is decided. What R7
says of a loaded program is `Config.admitsProgram`. -/
def Config.admissible (c : Config) : Bool :=
  loByte c.stackBase == 0 && plainAddress c.stackBase && plainAddress c.resetVector && plainAddress (c.resetVector + 1) &&
    (c.resetVector != 0xFFFF || c.topWrapDecided)

/-- Whether a program of `n` bytes loaded at PRG_BASE covers an address (70_reset_and_hazards.md R371). -/
def Config.programCovers (c : Config) (n : Nat) (a : Word) : Bool :=
  decide (c.prgBase.toNat ≤ a.toNat) && decide (a.toNat < c.prgBase.toNat + n)

/-- The constraints of 00_scope.md R7 on a loaded program of `n` bytes: (b) every address of it is a plain address, that
is, it is empty or lies below 0x0800 or from 0x2000 on; (d) it fits, and it covers neither reset-vector cell. -/
def Config.admitsProgram (c : Config) (n : Nat) : Bool :=
  (n == 0 || decide (c.prgBase.toNat + n ≤ 0x0800) || decide (0x2000 ≤ c.prgBase.toNat)) &&
    decide (c.prgBase.toNat + n ≤ 65536) &&
    !c.programCovers n c.resetVector && !c.programCovers n (c.resetVector + 1)

end Sys2Proof
end

