-- ==== Sys2Proof/Safety.lean ====
section
/-! DEFINITION. What the claims speak of: the constraints on the engine's inputs, the invariant of the machine, the state an
ordinary instruction leaves apart from its own effect, the cells an instruction stores to, the flag and register writers
the spec lists, and outcomes compared up to a field. -/

namespace Sys2Proof.Machine

/-- The constraints on caller-supplied inputs: every table entry has a base cycle count of at least 1 (00_scope.md R7 (e),
30_encoding.md R108), every handler stays in its reach (41_engine_step.md R178). -/
structure EngineInputs.WellFormed (w : EngineInputs) : Prop where
  cycles : ∀ (opc : Byte) (e : Entry), w.optable opc = some e → 1 ≤ e.cyc
  reach  : ∀ (op : Op) (h : Handler), w.handlers op = some h → h.InReach

/-- The invariant every step and every host command keeps: memory is canonical; the last-instruction slot holds a
well-formed record (10_state.md R40) of a row of the opcode table (30_encoding.md R108); and once a break has executed
the engine is halted until a reset clears the slot (41_engine_step.md R171, R186). -/
structure Inv (w : EngineInputs) (s : State) : Prop where
  mem_canonical   : s.mem.wf
  last_wellFormed : ∀ r, s.last = some r → r.wellFormed = true
  last_tableRow   : ∀ r, s.last = some r → ∃ opc, w.optable opc = some ⟨r.op, r.mode, r.cyc, r.xflag⟩
  break_halts     : ∀ r, s.last = some r → r.op = .BRK → s.es = .halted

/-- The state after an ordinary instruction whose handler changes nothing: `last` holds the record, PC is past the
instruction, the cycles are charged (41_engine_step.md R169, R173, R181). -/
def retired (i : Instr) (s : State) : State :=
  { s with
    last := some (instrRecord i s)
    pc := s.pc + BitVec.ofNat 16 i.len
    pending := s.pending +
      (((instrRecord i s).cyc - 1) + if (instrRecord i s).xflag && (instrRecord i s).crossed then 1 else 0) }

/-- The byte an instruction's operand holds, resolved and read at a state (41_engine_step.md R176). -/
def operandOf (i : Instr) (s : State) : Byte := operandRead (instrRecord i s) s

/-- `t` is `s` with byte `v` in cell `a`, every other cell as it was, as far as memory goes. -/
def StoresOnly (a : Word) (v : Byte) (s t : State) : Prop :=
  t.cell a = v ∧ ∀ b, b ≠ a → t.cell b = s.cell b

/-- Executing `i` at `s` completes, stores byte `v` in cell `a` and in no other, and leaves the flags `f`. -/
def ExecStores (i : Instr) (s : State) (a : Word) (v : Byte) (f : Flags) : Prop :=
  ∃ t, exec i s = .next t ∧ StoresOnly a v s t ∧ t.flags = f

/-- The operations that write their operand (42_ref_load_store_transfer.md R204 to R206, 43_ref_arith_logic.md R243, R244,
R249 to R252). -/
def writesOperand : Op → Bool
  | .STA | .STX | .STY | .INC | .DEC | .ASL | .LSR | .ROL | .ROR => true
  | _ => false

/-- The cells an instruction stores to: its operand's address where it writes an operand in memory, the stack slots of a
push, and no cell otherwise. -/
def storeTargets (i : Instr) (s : State) : List Word :=
  match i.op with
  | .PHA | .PHP => [stackAddr s.cfg s.sp]
  | .JSR => [stackAddr s.cfg s.sp, stackAddr s.cfg (s.sp - 1)]
  | op =>
    if writesOperand op then
      match (instrRecord i s).loc with
      | .addr a => [a]
      | .none => []
    else []

/-- The operations that may write C (10_state.md R28). -/
def carryWriters : List Op :=
  [.ADC, .SBC, .CMP, .CPX, .CPY, .ASL, .LSR, .ROL, .ROR, .CLC, .SEC, .PLP, .RTI]

/-- The operations that may write Z and N: every load, transfer except TXS, arithmetic, logic, shift, increment,
decrement, compare, and PLA, BIT, PLP, RTI (10_state.md R28). -/
def zeroNegativeWriters : List Op :=
  [.LDA, .LDX, .LDY, .TAX, .TAY, .TXA, .TYA, .TSX, .ADC, .SBC, .AND, .ORA, .EOR, .ASL, .LSR, .ROL, .ROR, .INC, .DEC,
    .INX, .INY, .DEX, .DEY, .CMP, .CPX, .CPY, .PLA, .BIT, .PLP, .RTI]

/-- The operations that may write V (10_state.md R28). -/
def overflowWriters : List Op := [.ADC, .SBC, .BIT, .CLV, .PLP, .RTI]

/-- The operations that may write I (10_state.md R28). -/
def interruptWriters : List Op := [.SEI, .CLI, .PLP, .RTI]

/-- The operations that may write D (10_state.md R28). -/
def decimalWriters : List Op := [.SED, .CLD, .PLP, .RTI]

/-- The operations that may write A whatever their mode (files 42_, 43_, 45_); the shifts write it in ACC mode. -/
def accumulatorWriters : List Op := [.LDA, .TXA, .TYA, .ADC, .SBC, .AND, .ORA, .EOR, .PLA]

/-- The operations that may write X. -/
def xWriters : List Op := [.LDX, .TAX, .TSX, .INX, .DEX]

/-- The operations that may write Y. -/
def yWriters : List Op := [.LDY, .TAY, .INY, .DEY]

/-- The operations that may write SP (45_ref_stack_flags.md R300, 42_ref_load_store_transfer.md R212). -/
def stackPointerWriters : List Op := [.TXS, .PHA, .PHP, .PLA, .PLP, .JSR, .RTS, .RTI]

/-- The operations that may write PC themselves (44_ref_control_flow.md), and break, which leaves it unadvanced. -/
def pcWriters : List Op :=
  [.JMP, .JSR, .RTS, .RTI, .BCC, .BCS, .BEQ, .BNE, .BMI, .BPL, .BVC, .BVS, .BRK]

/-- An outcome with its next state mapped: two outcomes compared up to what `f` forgets. -/
def mapNext (f : State → State) : Result → Result
  | .next s => .next (f s)
  | .fault r => .fault r
  | .refused r => .refused r

/-- The bytes pushed one after another (20_memory.md R79). -/
def pushAll : List Byte → State → State
  | [], s => s
  | v :: rest, s => pushAll rest (s.push v)

/-- The bytes of `n` pops in order, and the state after them (20_memory.md R80). -/
def popMany : Nat → State → List Byte × State
  | 0, s => ([], s)
  | n + 1, s => (s.pop.1 :: (popMany n s.pop.2).1, (popMany n s.pop.2).2)

end Sys2Proof.Machine
end

