-- ==== Sys2Proof/Certificates/Slice0/Obligations.lean ====
section
/-! DEFINITION. The statements for the provers. Statements about the reference table and the reference handlers (files 42_ to
45_) rest on rules the spec marks as general knowledge under its decisions D12 and D13 (log 5, log 6); their docstrings
say so. -/

open Sys2Proof Sys2Proof.Machine

/-! ## Encoding -/

/-- Sample words, one or more of every family, written out from the by-operation list of 30_encoding.md R112 (the two
attested rows of R110 among them; the others are D12). -/
def Obligations.SampleWordsDecode : Prop :=
  decode [0x00] = .ok (.brk, []) ∧ decode [0xA9, 0x01] = .ok (.ldaImm 0x01, []) ∧
  decode [0x9D, 0xFE, 0x30] = .ok (.staAbx 0x30FE, []) ∧ decode [0xBA] = .ok (.tsx, []) ∧
  decode [0x71, 0x60] = .ok (.adcIzy 0x60, []) ∧ decode [0x6A] = .ok (.rorAcc, []) ∧
  decode [0xC1, 0x70] = .ok (.cmpIzx 0x70, []) ∧ decode [0x6C, 0xFF, 0x30] = .ok (.jmpInd 0x30FF, []) ∧
  decode [0xD0, 0xFB] = .ok (.bne 0xFB, []) ∧ decode [0x28] = .ok (.plp, []) ∧ decode [0xF8] = .ok (.sed, [])

/-- Decoding the encoding of any instruction, with any bytes after it, gives the instruction back and leaves those bytes
(30_encoding.md R101 to R106). The rows are D12's (log 5). -/
def Obligations.DecodeOfEncode : Prop :=
  ∀ (i : Instr) (rest : List Byte), decode (encode i ++ rest) = .ok (i, rest)

/-- The other direction: bytes that decode are the encoding of what they decode to, so no two byte sequences mean one
instruction (30_encoding.md R104, R115). -/
def Obligations.EncodeOfDecode : Prop :=
  ∀ (bytes : List Byte) (i : Instr) (rest : List Byte), decode bytes = .ok (i, rest) → bytes = encode i ++ rest

/-- Exactly the 105 bytes 30_encoding.md R113 lists are illegal with the reference table (D12, log 5), whatever follows
them. -/
def Obligations.IllegalOpcodesAreTheListed : Prop :=
  ∀ (opc : Byte) (rest : List Byte), decode (opc :: rest) = .error (.illegalOpcode opc) ↔
    opc ∈ ([0x02, 0x03, 0x04, 0x07, 0x0B, 0x0C, 0x0F, 0x12, 0x13, 0x14, 0x17, 0x1A] ++
      [0x1B, 0x1C, 0x1F, 0x22, 0x23, 0x27, 0x2B, 0x2F, 0x32, 0x33, 0x34, 0x37, 0x3A, 0x3B, 0x3C, 0x3F, 0x42] ++
      [0x43, 0x44, 0x47, 0x4B, 0x4F, 0x52, 0x53, 0x54, 0x57, 0x5A, 0x5B, 0x5C, 0x5F, 0x62, 0x63, 0x64, 0x67] ++
      [0x6B, 0x6F, 0x72, 0x73, 0x74, 0x77, 0x7A, 0x7B, 0x7C, 0x7F, 0x80, 0x82, 0x83, 0x87, 0x89, 0x8B, 0x8F] ++
      [0x92, 0x93, 0x97, 0x9B, 0x9C, 0x9E, 0x9F, 0xA3, 0xA7, 0xAB, 0xAF, 0xB2, 0xB3, 0xB7, 0xBB, 0xBF, 0xC2] ++
      [0xC3, 0xC7, 0xCB, 0xCF, 0xD2, 0xD3, 0xD4, 0xD7, 0xDA, 0xDB, 0xDC, 0xDF, 0xE2, 0xE3, 0xE7, 0xEB, 0xEF] ++
      [0xF2, 0xF3, 0xF4, 0xF7, 0xFA, 0xFB, 0xFC, 0xFF] : List Byte)

/-! ## Flags and the status byte -/

/-- The status byte layout (10_state.md R34): EncodeStatus puts each flag at its bit, the context at bit 4 and 1 at bit 5;
DecodeStatus takes each flag from its bit. -/
def Obligations.StatusByteLayout : Prop :=
  ∀ (f : Flags) (ctx : Bool) (b : Byte),
    ((encodeStatus f ctx).getLsbD 0 = f.c ∧ (encodeStatus f ctx).getLsbD 1 = f.z ∧
      (encodeStatus f ctx).getLsbD 2 = f.i ∧ (encodeStatus f ctx).getLsbD 3 = f.d ∧
      (encodeStatus f ctx).getLsbD 4 = ctx ∧ (encodeStatus f ctx).getLsbD 5 = true ∧
      (encodeStatus f ctx).getLsbD 6 = f.v ∧ (encodeStatus f ctx).getLsbD 7 = f.n) ∧
    decodeStatus b = { c := b.getLsbD 0, z := b.getLsbD 1, i := b.getLsbD 2, d := b.getLsbD 3, v := b.getLsbD 6,
                       n := b.getLsbD 7 }

/-- The status round trip and its failing converse (10_state.md R37): decoding an encoded status gives the same six flags
for either context; encoding a decoded byte forces bit 5 to 1 and bit 4 to the context, and so differs from the byte
whenever its bit 5 is 0 or its bit 4 is not the context. -/
def Obligations.StatusRoundTrip : Prop :=
  (∀ (f : Flags) (ctx : Bool), decodeStatus (encodeStatus f ctx) = f) ∧
  (∀ (b : Byte) (ctx : Bool),
    encodeStatus (decodeStatus b) ctx = (b &&& 0xCF) ||| 0x20 ||| (if ctx then 0x10 else 0) ∧
    (b.getLsbD 5 = false ∨ b.getLsbD 4 ≠ ctx → encodeStatus (decodeStatus b) ctx ≠ b))

/-- SetZN (10_state.md R33): Z is 1 exactly when the byte is 0, N is its bit 7, and no other state is written. -/
def Obligations.SetZNRule : Prop :=
  ∀ (s : State) (r : Byte),
    s.setZN r = { s with flags := { s.flags with z := decide (r = 0), n := r.getLsbD 7 } }

/-! ## Memory -/

/-- The read mirror (20_memory.md R62, R65): below 0x2000 a read returns the cell at the low 11 bits of the address, which
is also what a read of the address modulo 2048 returns; from 0x2000 on it returns the addressed cell. -/
def Obligations.ReadMirror : Prop :=
  ∀ (s : State) (a : Word),
    (a.toNat < 0x2000 →
      s.readByte a = s.cell (a &&& 0x07FF) ∧ s.readByte a = s.readByte (BitVec.ofNat 16 (a.toNat % 2048))) ∧
    (0x2000 ≤ a.toNat → s.readByte a = s.cell a)

/-- A byte write stores into the addressed cell itself, whatever the address, changes no other cell and nothing else of the
state (20_memory.md R63). -/
def Obligations.ByteWriteUnmirrored : Prop :=
  ∀ (s : State) (a : Word) (v : Byte),
    StoresOnly a v s (s.writeByte a v) ∧ s.writeByte a v = { s with mem := (s.writeByte a v).mem }

/-- What the asymmetry of reads and writes gives (20_memory.md R64): at a plain address a read after a write returns the
byte; a write to [0x0800, 0x2000) is seen by no read; a write below 0x0800 is seen by the reads of all four aliases. -/
def Obligations.WriteThenRead : Prop :=
  ∀ (s : State) (a : Word) (v : Byte),
    (a.toNat < 0x0800 ∨ 0x2000 ≤ a.toNat → (s.writeByte a v).readByte a = v) ∧
    (0x0800 ≤ a.toNat → a.toNat < 0x2000 → ∀ b, (s.writeByte a v).readByte b = s.readByte b) ∧
    (a.toNat < 0x0800 → ∀ k : Nat, k < 4 → (s.writeByte a v).readByte (a + BitVec.ofNat 16 (0x0800 * k)) = v)

/-- The corrected word round trip (20_memory.md R90, C1): for every position but 0xFFFF a word write puts the low byte in
that cell and the high byte in the next; reading the word back returns it for positions up to 0x07FE and from 0x2000 on,
and for every position in [0x07FF, 0x1FFF] there are a state and a word for which it does not. -/
def Obligations.WordRoundTrip : Prop :=
  ∀ (p : Word), p ≠ 0xFFFF →
    (∀ (s : State) (w : Word), ∃ t, s.writeWord p w = .ok t ∧ t.cell p = loByte w ∧ t.cell (p + 1) = hiByte w ∧
      (p.toNat ≤ 0x07FE ∨ 0x2000 ≤ p.toNat → t.readWord p = .ok w)) ∧
    (0x07FF ≤ p.toNat → p.toNat ≤ 0x1FFF → ∃ (s t : State) (w : Word), s.writeWord p w = .ok t ∧ t.readWord p ≠ .ok w)

/-- A 16-bit access at 0xFFFF (20_memory.md R68, decision D2, log 17): under `wrap` the second byte is cell 0x0000; under
`fault` both accesses raise the memory fault. -/
def Obligations.TopOfMemoryPolicy : Prop :=
  ∀ (s : State) (w : Word),
    (s.cfg.topWrap = .wrap →
      s.readWord 0xFFFF = .ok (mkWord (s.cell 0xFFFF) (s.cell 0x0000)) ∧
      ∃ t, s.writeWord 0xFFFF w = .ok t ∧ t.cell 0xFFFF = loByte w ∧ t.cell 0x0000 = hiByte w ∧
        ∀ b, b ≠ 0xFFFF → b ≠ 0x0000 → t.cell b = s.cell b) ∧
    (s.cfg.topWrap = .fault →
      s.readWord 0xFFFF = .error (.memory 0xFFFF) ∧ s.writeWord 0xFFFF w = .error (.memory 0xFFFF))

/-! ## Stack -/

/-- Push and Pop (20_memory.md R79, R80): Push writes at (base OR pointer) and then decrements the pointer, modulo 256; Pop
increments it and then reads there, mirrored, and changes nothing but the pointer. -/
def Obligations.StackPrimitives : Prop :=
  ∀ (s : State) (v : Byte),
    (StoresOnly (s.cfg.stackBase ||| s.sp.zeroExtend 16) v s (s.push v) ∧
      s.push v = { s with mem := (s.push v).mem, sp := s.sp - 1 }) ∧
    s.pop = (s.readByte (s.cfg.stackBase ||| (s.sp + 1).zeroExtend 16), { s with sp := s.sp + 1 })

/-- Push16 (20_memory.md R81): with the stack page aligned (00_scope.md R7 (a)), the high byte lies at the starting slot,
the low byte at the slot below it in the page, no other cell changes, and the pointer moves down by two. -/
def Obligations.WordPushPlacement : Prop :=
  ∀ (s : State) (w : Word), loByte s.cfg.stackBase = 0 →
    (s.push16 w).cell (s.cfg.stackBase ||| s.sp.zeroExtend 16) = hiByte w ∧
    (s.push16 w).cell (s.cfg.stackBase ||| (s.sp - 1).zeroExtend 16) = loByte w ∧
    (∀ b, b ≠ s.cfg.stackBase ||| s.sp.zeroExtend 16 → b ≠ s.cfg.stackBase ||| (s.sp - 1).zeroExtend 16 →
      (s.push16 w).cell b = s.cell b) ∧
    s.push16 w = { s with mem := (s.push16 w).mem, sp := s.sp - 2 }

/-- The stack properties (20_memory.md R83), for any pointer value, across the wrap too, on an admissible configuration: a
sequence of at most 256 pushed bytes is popped in exact reverse order and the pointer returns to its start; a pushed word
is popped again. -/
def Obligations.StackIsLifo : Prop :=
  ∀ (s : State), s.cfg.admissible = true →
    (∀ bytes : List Byte, bytes.length ≤ 256 →
      (popMany bytes.length (pushAll bytes s)).1 = bytes.reverse ∧
      (popMany bytes.length (pushAll bytes s)).2.sp = s.sp) ∧
    (∀ w : Word, (s.push16 w).pop16.1 = w ∧ (s.push16 w).pop16.2.sp = s.sp)

/-! ## The addressing-mode resolver -/

/-- Resolve, mode by mode, from the bytes after the opcode (40_addressing_modes.md R131 to R145). The 16-bit operand modes are
stated where their operand fetch does not fault, IND also where its pointer read does not. Three clauses are the model's
choices, from decisions the spec marks as its own: the register assignment, pointer and wrap rules (D9, log 21); that
operand bytes are read at addresses that wrap modulo 65536 (R131, D10, log 31); and what a page crossing is (R145, D7,
log 14). -/
def Obligations.ResolverByMode : Prop :=
  ∀ (s : State) (pc : Word),
    let op8 := s.readByte (pc + 1)
    let op16 := mkWord op8 (s.readByte (pc + 1 + 1))
    let zp (z : Byte) : Word := z.zeroExtend 16
    let pointer (z : Byte) : Word := mkWord (s.readByte (zp z)) (s.readByte (zp (z + 1)))
    let crosses (base ea : Word) : Bool := hiByte ea != hiByte base
    resolve .IMP pc s = .ok ⟨.none, 0, 1, false⟩ ∧
    resolve .ACC pc s = .ok ⟨.none, 0, 1, false⟩ ∧
    resolve .IMM pc s = .ok ⟨.none, zp op8, 2, false⟩ ∧
    resolve .ZP pc s = .ok ⟨.addr (zp op8), zp op8, 2, false⟩ ∧
    resolve .ZPX pc s = .ok ⟨.addr (zp (op8 + s.x)), zp op8, 2, false⟩ ∧
    resolve .ZPY pc s = .ok ⟨.addr (zp (op8 + s.y)), zp op8, 2, false⟩ ∧
    resolve .IZX pc s = .ok ⟨.addr (pointer (op8 + s.x)), zp op8, 2, false⟩ ∧
    resolve .IZY pc s =
      .ok ⟨.addr (pointer op8 + zp s.y), zp op8, 2, crosses (pointer op8) (pointer op8 + zp s.y)⟩ ∧
    resolve .REL pc s = .ok ⟨.none, zp op8, 2, false⟩ ∧
    (s.cfg.topWrap = .wrap ∨ pc + 1 ≠ 0xFFFF →
      resolve .ABS pc s = .ok ⟨.addr op16, op16, 3, false⟩ ∧
      resolve .ABX pc s = .ok ⟨.addr (op16 + zp s.x), op16, 3, crosses op16 (op16 + zp s.x)⟩ ∧
      resolve .ABY pc s = .ok ⟨.addr (op16 + zp s.y), op16, 3, crosses op16 (op16 + zp s.y)⟩ ∧
      (s.cfg.topWrap = .wrap ∨ op16 ≠ 0xFFFF →
        resolve .IND pc s = .ok ⟨.addr (mkWord (s.readByte op16) (s.readByte (op16 + 1))), op16, 3, false⟩))

/-- Resolve is total but for the top of memory (40_addressing_modes.md R146): it faults exactly under TOP_WRAP = fault, in a
mode with a two-byte operand at 0xFFFF, or in IND with pointer 0xFFFF, and then with the memory fault at 0xFFFF. -/
def Obligations.ResolverFaults : Prop :=
  ∀ (mode : Mode) (pc : Word) (s : State) (f : Fault), resolve mode pc s = .error f ↔
    f = .memory 0xFFFF ∧ s.cfg.topWrap = .fault ∧ (mode = .ABS ∨ mode = .ABX ∨ mode = .ABY ∨ mode = .IND) ∧
      (pc = 0xFFFE ∨ mode = .IND ∧ mkWord (s.readByte (pc + 1)) (s.readByte (pc + 1 + 1)) = 0xFFFF)

/-- The operand accessor (41_engine_step.md R176, R177; the immediate line is decision D8): an address reads its byte through
the mirror and is written unmirrored; without one, immediate mode reads the literal, other modes read A, and every write
goes to A. -/
def Obligations.OperandAccessor : Prop :=
  ∀ (ins : InstrRecord) (s : State) (v : Byte),
    (∀ a, ins.loc = .addr a →
      operandRead ins s = s.readByte a ∧ StoresOnly a v s (operandWrite ins v s) ∧
        operandWrite ins v s = { s with mem := (operandWrite ins v s).mem }) ∧
    (ins.loc = .none →
      operandRead ins s = (if ins.mode = .IMM then loByte ins.arg else s.a) ∧ operandWrite ins v s = { s with a := v })

/-! ## The engine -/

/-- A step runs the decoded instruction: where the engine is not halted, PC is not the sentinel, and the bytes read at PC
decode to `i` with no fault in fetching its operand, the step is exec of `i` on the same state with the engine running
and the pending counter spent by one if nonzero (41_engine_step.md R160, R183; log 7, log 8). -/
def Obligations.StepRunsDecodedInstruction : Prop :=
  ∀ (s : State) (i : Instr) (rest : List Byte), s.es ≠ .halted → s.pc ≠ s.cfg.breakSentinel →
    decode [s.readByte s.pc, s.readByte (s.pc + 1), s.readByte (s.pc + 2)] = .ok (i, rest) →
    ¬ (i.len = 3 ∧ s.pc + 1 = 0xFFFF ∧ s.cfg.topWrap = .fault) →
    step s = exec i { s with es := .running, pending := s.pending - 1 }

/-- Decode failure (41_engine_step.md R170): the machine's step faults on an opcode byte with no entry, with that byte; and for
any opcode table and any handlers the engine step faults so, emits no hook event, and leaves no change of state standing at
the fault, so `last` is not written. The form of the hook event is decision D18 (log 11); a fault outcome carries no
state, and the state standing at it is `stateAtFault` (R331, D11, log 18). -/
def Obligations.IllegalOpcodeFaults : Prop :=
  (∀ s : State, s.es ≠ .halted → s.pc ≠ s.cfg.breakSentinel → optable (s.readByte s.pc) = none →
    step s = .fault (.decode (s.readByte s.pc))) ∧
  (∀ (w : EngineInputs) (s : State), w.optable (s.readByte s.pc) = none →
    engineStep w s = .fault (.decode (s.readByte s.pc)) ∧ hookEvent w s = none ∧ stateAtFault w s = some s)

/-- The sentinel and the halted engine (41_engine_step.md R183, R184, R186; status transitions are decision D15, log 27), for
any opcode table and handlers: at the sentinel the engine halts with no other change, under a step, a run and a bounded
run of any positive budget, and a budget of 0 only sets it running (Note to D16, log 28); a halted engine changes nothing
under any of them; no hook event is emitted. -/
def Obligations.SentinelAndHaltedEngine : Prop :=
  ∀ (w : EngineInputs) (s : State),
    (s.es ≠ .halted → s.pc = s.cfg.breakSentinel →
      step s = .next { s with es := .halted } ∧ loopIteration w s = .next { s with es := .halted } ∧
        (∀ n, runBounded w (n + 1) s = .next { s with es := .halted }) ∧
        runBounded w 0 s = .next { s with es := .running } ∧ RunReturns w s { s with es := .halted } ∧
        hookEvent w s = none) ∧
    (s.es = .halted →
      step s = .next s ∧ loopIteration w s = .next s ∧ (∀ n, runBounded w n s = .next s) ∧ RunReturns w s s ∧
        hookEvent w s = none)

/-- Break only halts (41_engine_step.md R171): the step that decodes break emits the hook event with the pre-mutation state,
keeps its record in `last`, and leaves the engine halted with PC, registers, flags, memory and the counter as that step
found them; the machine's step spends the counter before it (R183, decision D6, log 30). So do the instruction alone and
the engine over any table that maps the fetched byte to the break identity, with any handlers. The form of the hook event
is decision D18 (log 11), that break writes `last` is decision D17 (log 13). -/
def Obligations.BreakOnlyHalts : Prop :=
  (∀ s : State, s.es ≠ .halted → s.pc ≠ s.cfg.breakSentinel →
    (optable (s.readByte s.pc)).map Entry.op = some .BRK →
    ∃ ins, ins.op = .BRK ∧ hookEvent .ref s = some ⟨s.a, s.x, s.y, s.sp, s.pc, s.flags, s.mem, ins⟩ ∧
      step s = .next { s with last := some ins, es := .halted, pending := s.pending - 1 }) ∧
  (∀ s : State, exec .brk s = .next { s with last := some (instrRecord .brk s), es := .halted }) ∧
  (∀ (w : EngineInputs) (s : State) (e : Entry) (r : Resolution),
    w.optable (s.readByte s.pc) = some e → e.op = .BRK → resolve e.mode s.pc s = .ok r →
    engineStep w s = .next { s with last := some (mkRecord e r), es := .halted } ∧
    (s.es ≠ .halted → s.pc ≠ s.cfg.breakSentinel →
      hookEvent w s = some ⟨s.a, s.x, s.y, s.sp, s.pc, s.flags, s.mem, mkRecord e r⟩))

/-- Dispatch failure and handler failure (41_engine_step.md R160 line 6, R179, R180), for any opcode table and handlers: an
identity with no handler faults at dispatch, where `last` is written and PC advanced (R331, log 18); a handler's failure
is the step's fault, kind and information as the handler reports them (log 19), and what stands is what the handler left,
from `last` written and PC advanced on: a handler in its reach leaves the record in `last`, and one that writes PC nowhere
leaves PC advanced (70_reset_and_hazards.md R382 (d)). The reference map has a handler for every identity of the reference
table and of the reference set but break (D12, D13; log 5, log 6). -/
def Obligations.MissingOrFailingHandlerFaults : Prop :=
  (∀ (w : EngineInputs) (s : State) (e : Entry) (r : Resolution),
    w.optable (s.readByte s.pc) = some e → e.op ≠ .BRK → resolve e.mode s.pc s = .ok r →
    let ins := mkRecord e r
    let t : State := { s with last := some ins, pc := s.pc + BitVec.ofNat 16 r.len }
    (w.handlers e.op = none → engineStep w s = .fault (.dispatch e.op) ∧ stateAtFault w s = some t) ∧
    (∀ (h : Handler) (f : Fault) (u : State), w.handlers e.op = some h → h ins t = .error ⟨f, u⟩ →
      engineStep w s = .fault f ∧ stateAtFault w s = some u ∧ (h.InReach → u.last = some ins) ∧
      (∀ p : HandlerProgram, p.KeepsPC → h ins t = p.run ins t → u.pc = s.pc + BitVec.ofNat 16 r.len))) ∧
  (∀ (opc : Byte) (e : Entry), optable opc = some e → e.op ≠ .BRK → ∃ h, handlerOf e.op = some h) ∧
  (∀ op : Op, op ≠ .BRK → (∀ n, op ≠ .other n) → ∃ h, handlerOf op = some h)

/-- The machine's step, which decodes first and then executes one of 151 meanings (log 7, log 8), is the run loop's iteration
of the engine step as 41_engine_step.md R160 and R183 write it, with the reference table and the reference handlers (D12,
D13; log 5, log 6): the sentinel test, the decrement, table lookup, resolution from memory, last, break test, PC,
dispatch, handler, cycles. -/
def Obligations.StepIsEngineStep : Prop := ∀ s : State, step s = loopIteration .ref s

/-- The bounded run (41_engine_step.md R184, decision D16, log 28). A budget of 0 executes nothing and sets an engine that is
not halted running, wherever PC is. With the reference table and handlers (D12, D13; log 5, log 6) a positive budget is
that many steps of the machine: the budget, the sentinel, the break and the faults end both alike. For any well-formed
table and handlers, a run of budget m + n is a run of budget m followed by one of budget n. -/
def Obligations.BoundedRunIsIteratedStep : Prop :=
  (∀ (w : EngineInputs) (s : State),
    runBounded w 0 s = .next (if s.es = .halted then s else { s with es := .running })) ∧
  (∀ (n : Nat) (s : State), runBounded .ref (n + 1) s = Host.Core.run Sys2Proof.core (n + 1) s) ∧
  (∀ w : EngineInputs, w.WellFormed → ∀ (m n : Nat) (s : State),
    runBounded w (m + n) s =
      match runBounded w m s with
      | .next t => runBounded w n t
      | .fault f => .fault f
      | .refused r => .refused r)

/-- The ends of a run (41_engine_step.md R185), for any well-formed table and handlers: a run returns one state only, and never
both returns and faults; from an engine not yet halted it ends halted at the sentinel, or halted by break with PC the
address of the break opcode byte. -/
def Obligations.RunEnds : Prop :=
  ∀ w : EngineInputs, w.WellFormed →
    (∀ s t t' : State, RunReturns w s t → RunReturns w s t' → t = t') ∧
    (∀ (s t : State) (f : Fault), RunReturns w s t → ¬ RunFaults w s f) ∧
    (∀ s t : State, s.es ≠ .halted → RunReturns w s t →
      t.es = .halted ∧
        (t.pc = t.cfg.breakSentinel ∨ (w.optable (t.readByte t.pc)).map Entry.op = some .BRK))

/-- The engine status (10_state.md R38): it is idle at power-on; a step leaves it halted only at the sentinel or by the break
operation; a halted engine's step changes nothing, which is decision D15's reading of "terminal" (41_engine_step.md R186;
log 7, log 27); and no instruction reads it. -/
def Obligations.EngineStatusRule : Prop :=
  (∀ (cfg : Config) (init : Init), (powerOn cfg init).es = .idle) ∧
  (∀ s t : State, s.es ≠ .halted → step s = .next t → t.es = .halted →
    s.pc = s.cfg.breakSentinel ∨ (optable (s.readByte s.pc)).map Entry.op = some .BRK) ∧
  (∀ s : State, s.es = .halted → step s = .next s) ∧
  (∀ (i : Instr) (s : State) (e : EngineStatus),
    mapNext (fun t => t.setStatus .idle) (exec i (s.setStatus e)) = mapNext (fun t => t.setStatus .idle) (exec i s))

/-- Every cause of a fault of a step with the reference table and handlers (60_exceptions.md R332, R335): an opcode byte with
no entry, or the top of memory under TOP_WRAP = fault; and a step never refuses. -/
def Obligations.StepFaultCauses : Prop :=
  ∀ s : State,
    (∀ f, step s = .fault f →
      f = .decode (s.readByte s.pc) ∧ optable (s.readByte s.pc) = none ∨ f = .memory 0xFFFF ∧ s.cfg.topWrap = .fault) ∧
    (∀ r, step s ≠ .refused r)

/-- The debug hook (41_engine_step.md R172; the event's form is decision D18, log 11; the slot is D17, log 13). It observes
before any mutation: a step that executes an instruction emits one event, carrying the registers, flags and memory of
before the step and the record the step then keeps in `last`. And it makes the trace of a run, for any well-formed table
and handlers: over a bounded run that returns, one event for each executed instruction, as many as the budget if the
engine is still running, in execution order, the latest with the record left in `last`; only the last can be a break's,
and it is, with PC the address of the break opcode byte, if the run halts away from the sentinel. -/
def Obligations.HookSeesPreMutationState : Prop :=
  (∀ s t : State, s.es ≠ .halted → s.pc ≠ s.cfg.breakSentinel → step s = .next t →
    ∃ ins, hookEvent .ref s = some ⟨s.a, s.x, s.y, s.sp, s.pc, s.flags, s.mem, ins⟩ ∧ t.last = some ins) ∧
  (∀ w : EngineInputs, w.WellFormed → ∀ (n : Nat) (s t : State), s.es ≠ .halted → runBounded w n s = .next t →
    (trace w n s).length ≤ n ∧ (t.es ≠ .halted → (trace w n s).length = n) ∧
    (∀ ev ∈ (trace w n s).dropLast, ev.ins.op ≠ .BRK) ∧
    (∀ ev, (trace w n s).getLast? = some ev → t.last = some ev.ins) ∧
    (t.es = .halted → t.pc ≠ t.cfg.breakSentinel →
      ∃ ev, (trace w n s).getLast? = some ev ∧ ev.ins.op = .BRK ∧ ev.pc = t.pc))

/-- What the engine does around every instruction (10_state.md R41, 41_engine_step.md R173, R181; the cycle charge is
decision D7, the slot D17): `last` holds the record, the configuration stands, and for every instruction but break the
status stands and the counter grows by the base count minus one plus the declared page-cross cycle. -/
def Obligations.EngineBookkeeping : Prop :=
  ∀ (i : Instr) (s t : State), exec i s = .next t →
    t.last = some (instrRecord i s) ∧ t.cfg = s.cfg ∧
    (i.op ≠ .BRK → t.es = s.es ∧ t.pending = s.pending + (i.entry.cyc - 1) +
      (if i.entry.xflag && (instrRecord i s).crossed then 1 else 0)) ∧
    (i.op = .BRK → t.es = .halted ∧ t.pending = s.pending)

/-- The reference handlers always succeed and stay in their reach (41_engine_step.md R178, R179; D13, log 6): none writes the
engine status, the pending counter, the last-instruction slot or the configuration; each does what its program does, which
is files 42_ to 45_ line by line over the primitives a handler has (log 37); and with the reference table (D12, log 5)
they are well-formed inputs of the engine (00_scope.md R7 (e)). -/
def Obligations.HandlersSucceedInReach : Prop :=
  (∀ (op : Op) (h : Handler) (ins : InstrRecord) (s : State), handlerOf op = some h →
    ∃ t, h ins s = .ok t ∧ t.es = s.es ∧ t.pending = s.pending ∧ t.last = s.last ∧ t.cfg = s.cfg) ∧
  (∀ (op : Op) (h : Handler), handlerOf op = some h →
    ∃ p, programOf op = some p ∧ ∀ (ins : InstrRecord) (s : State), h ins s = (p ins).run ins s) ∧
  EngineInputs.ref.WellFormed

/-! ## Invariant, configuration, what depends on what -/

/-- Every step keeps the invariant. -/
def Obligations.StepKeepsInvariant : Prop :=
  ∀ s t : State, Inv .ref s → step s = .next t → Inv .ref t

/-- The state after reset meets the invariant. -/
def Obligations.ResetMeetsInvariant : Prop := Inv .ref State.reset

/-- Every host command keeps the invariant (00_scope.md R12, 70_reset_and_hazards.md R376), for any well-formed opcode table
and handlers. -/
def Obligations.CommandsKeepInvariant : Prop :=
  ∀ w : EngineInputs, w.WellFormed → ∀ (c : HostCommand) (s t : State), Inv w s → command w c s = .next t → Inv w t

/-- The configuration is fixed: no step and no host command changes it (10_state.md R45, 30_encoding.md R108), for any
well-formed opcode table and handlers. -/
def Obligations.ConfigurationIsFixed : Prop :=
  (∀ s t : State, step s = .next t → t.cfg = s.cfg) ∧
  (∀ w : EngineInputs, w.WellFormed → ∀ s t : State, loopIteration w s = .next t → t.cfg = s.cfg) ∧
  (∀ w : EngineInputs, w.WellFormed → ∀ (c : HostCommand) (s t : State), command w c s = .next t → t.cfg = s.cfg)

/-- Nothing but the pending counter depends on the pending counter (70_reset_and_hazards.md R384): two states that differ
in it alone step to states that differ in it alone, or stop alike, and emit the same hook event; the machine's step, and
an iteration over any well-formed opcode table and handlers. -/
def Obligations.PendingIsUnobservable : Prop :=
  (∀ (s : State) (p : Nat),
    mapNext (fun t => t.setPending 0) (step (s.setPending p)) = mapNext (fun t => t.setPending 0) (step s)) ∧
  (∀ w : EngineInputs, w.WellFormed → ∀ (s : State) (p : Nat),
    mapNext (fun t => t.setPending 0) (loopIteration w (s.setPending p)) =
      mapNext (fun t => t.setPending 0) (loopIteration w s) ∧
    hookEvent w (s.setPending p) = hookEvent w s)

/-- The decimal flag has no effect (43_ref_arith_logic.md R233; reference handlers, D13): for every instruction but PHP, which
pushes it, two states that differ in D alone execute to states that differ at most in D. -/
def Obligations.DecimalFlagIsInert : Prop :=
  ∀ (i : Instr) (s : State) (b : Bool), i.op ≠ .PHP →
    mapNext (fun t => t.setD false) (exec i (s.setD b)) = mapNext (fun t => t.setD false) (exec i s)

/-! ## Frames over all instructions -/

/-- Who writes the flags (10_state.md R28; reference handlers, D13): an instruction whose operation is not listed as a writer
of a flag leaves that flag as it was. -/
def Obligations.FlagsChangeOnlyByTheirWriters : Prop :=
  ∀ (i : Instr) (s t : State), exec i s = .next t →
    (i.op ∉ carryWriters → t.flags.c = s.flags.c) ∧
    (i.op ∉ zeroNegativeWriters → t.flags.z = s.flags.z ∧ t.flags.n = s.flags.n) ∧
    (i.op ∉ overflowWriters → t.flags.v = s.flags.v) ∧
    (i.op ∉ interruptWriters → t.flags.i = s.flags.i) ∧
    (i.op ∉ decimalWriters → t.flags.d = s.flags.d)

/-- Who writes the registers (files 42_ to 45_; reference handlers, D13): A, X, Y and SP change only by the operations listed
for them, A also by the shifts in accumulator mode; PC is past the instruction unless the operation is a control transfer
or break, and break leaves it unadvanced. -/
def Obligations.RegistersChangeOnlyByTheirWriters : Prop :=
  ∀ (i : Instr) (s t : State), exec i s = .next t →
    (i.op ∉ accumulatorWriters → i.mode ≠ .ACC → t.a = s.a) ∧
    (i.op ∉ xWriters → t.x = s.x) ∧ (i.op ∉ yWriters → t.y = s.y) ∧ (i.op ∉ stackPointerWriters → t.sp = s.sp) ∧
    (i.op ∉ pcWriters → t.pc = s.pc + BitVec.ofNat 16 i.len) ∧ (i.op = .BRK → t.pc = s.pc)

/-- Memory frame over all instructions (42_ref_load_store_transfer.md R200 (c); reference handlers, D13): every cell outside
the cells the instruction stores to, computed from its record or its stack slots at the state before it, is as it was. -/
def Obligations.MemoryChangesOnlyAtStoreTargets : Prop :=
  ∀ (i : Instr) (s t : State), exec i s = .next t → ∀ a : Word, a ∉ storeTargets i s → t.cell a = s.cell a

/-! ## Loads, stores, transfers (reference handlers, D13) -/

/-- Loads (R201 to R203), every form of LDA, LDX and LDY: the instruction completes, the register holds the operand, Z and N
follow it, and nothing else changes but what retiring an instruction changes. -/
def Obligations.LoadsComplete : Prop :=
  ∀ (i : Instr) (s : State),
    let v := operandOf i s
    let f : Flags := { s.flags with z := decide (v = 0), n := v.getLsbD 7 }
    (i.op = .LDA → exec i s = .next { retired i s with a := v, flags := f }) ∧
    (i.op = .LDX → exec i s = .next { retired i s with x := v, flags := f }) ∧
    (i.op = .LDY → exec i s = .next { retired i s with y := v, flags := f })

/-- Stores (R204 to R206), every form of STA, STX and STY: the operand has an address, the instruction completes, that cell
holds the register, every other cell and everything else is as retiring an instruction leaves it; no flag changes. -/
def Obligations.StoresComplete : Prop :=
  ∀ (i : Instr) (s : State) (v : Byte),
    (i.op = .STA ∧ v = s.a ∨ i.op = .STX ∧ v = s.x ∨ i.op = .STY ∧ v = s.y) →
    ∃ a t, (instrRecord i s).loc = .addr a ∧ exec i s = .next t ∧ StoresOnly a v s t ∧
      t = { retired i s with mem := t.mem }

/-- The register operations: TAX, TAY, TXA, TYA and TSX copy and set Z and N of the copied byte, TXS copies and sets no
flag (R207 to R212); INX, INY, DEX and DEY move an index register by one modulo 256 and set Z and N of it (R245 to R248). -/
def Obligations.RegisterOperationsComplete : Prop :=
  ∀ s : State,
    let f (v : Byte) : Flags := { s.flags with z := decide (v = 0), n := v.getLsbD 7 }
    exec .tax s = .next { retired .tax s with x := s.a, flags := f s.a } ∧
    exec .tay s = .next { retired .tay s with y := s.a, flags := f s.a } ∧
    exec .txa s = .next { retired .txa s with a := s.x, flags := f s.x } ∧
    exec .tya s = .next { retired .tya s with a := s.y, flags := f s.y } ∧
    exec .tsx s = .next { retired .tsx s with x := s.sp, flags := f s.sp } ∧
    exec .txs s = .next { retired .txs s with sp := s.x } ∧
    exec .inx s = .next { retired .inx s with x := s.x + 1, flags := f (s.x + 1) } ∧
    exec .iny s = .next { retired .iny s with y := s.y + 1, flags := f (s.y + 1) } ∧
    exec .dex s = .next { retired .dex s with x := s.x - 1, flags := f (s.x - 1) } ∧
    exec .dey s = .next { retired .dey s with y := s.y - 1, flags := f (s.y - 1) }

/-! ## Arithmetic, logic, compare, increment, shift (reference handlers, D13) -/

/-- ADC and SBC (R234, R235), every form: with `m` the operand, or its complement for SBC, and `n = A + m + C` a natural, A
holds `n mod 256`, C is `n > 255`, V is both addends differing from the result in bit 7, Z and N follow the result. -/
def Obligations.AddSubtractComplete : Prop :=
  ∀ (i : Instr) (s : State) (m : Byte),
    (i.op = .ADC ∧ m = operandOf i s ∨ i.op = .SBC ∧ m = operandOf i s ^^^ 0xFF) →
    let n := s.a.toNat + m.toNat + (if s.flags.c then 1 else 0)
    let r := BitVec.ofNat 8 (n % 256)
    exec i s = .next { retired i s with
      a := r
      flags := { s.flags with
        c := decide (n > 255)
        v := decide (((s.a ^^^ r) &&& (m ^^^ r) &&& 0x80) ≠ 0)
        z := decide (r = 0)
        n := r.getLsbD 7 } }

/-- What the carry and overflow of R231 mean. After ADC, A is the unsigned sum modulo 256, C is exactly that the unsigned sum
exceeds 255, and V that the signed sum does not fit a signed byte; after SBC, A is `A - m - (1 - C)` modulo 256, C is
exactly that no borrow occurred, and V that the signed difference does not fit. -/
def Obligations.CarryAndOverflowMeaning : Prop :=
  ∀ (i : Instr) (s t : State), exec i s = .next t →
    let m := operandOf i s
    let c : Int := if s.flags.c then 1 else 0
    (i.op = .ADC →
      (t.a.toNat : Int) = ((s.a.toNat : Int) + m.toNat + c) % 256 ∧
      (t.flags.c = true ↔ (255 : Int) < (s.a.toNat : Int) + m.toNat + c) ∧
      (t.flags.v = true ↔ s.a.toInt + m.toInt + c < -128 ∨ 127 < s.a.toInt + m.toInt + c)) ∧
    (i.op = .SBC →
      (t.a.toNat : Int) = ((s.a.toNat : Int) - m.toNat - (1 - c)) % 256 ∧
      (t.flags.c = true ↔ (0 : Int) ≤ (s.a.toNat : Int) - m.toNat - (1 - c)) ∧
      (t.flags.v = true ↔ s.a.toInt - m.toInt - (1 - c) < -128 ∨ 127 < s.a.toInt - m.toInt - (1 - c)))

/-- AND, ORA, EOR (R236 to R238), every form: A holds the bitwise result, Z and N follow it, C and V stay. -/
def Obligations.LogicComplete : Prop :=
  ∀ (i : Instr) (s : State) (r : Byte),
    (i.op = .AND ∧ r = s.a &&& operandOf i s ∨ i.op = .ORA ∧ r = s.a ||| operandOf i s ∨
      i.op = .EOR ∧ r = s.a ^^^ operandOf i s) →
    exec i s = .next { retired i s with a := r, flags := { s.flags with z := decide (r = 0), n := r.getLsbD 7 } }

/-- CMP, CPX, CPY (R239 to R241) and BIT (R242), every form: a compare sets C when the register is at least the operand
unsigned, Z and N of the difference, and writes no register; BIT sets Z of `A & m`, N and V from bits 7 and 6 of `m`. -/
def Obligations.ComparesAndBitTestComplete : Prop :=
  ∀ (i : Instr) (s : State),
    let m := operandOf i s
    (∀ reg : Byte, (i.op = .CMP ∧ reg = s.a ∨ i.op = .CPX ∧ reg = s.x ∨ i.op = .CPY ∧ reg = s.y) →
      exec i s = .next { retired i s with flags := { s.flags with
        c := decide (m.toNat ≤ reg.toNat), z := decide (reg - m = 0), n := (reg - m).getLsbD 7 } }) ∧
    (i.op = .BIT →
      exec i s = .next { retired i s with flags := { s.flags with
        z := decide ((s.a &&& m) = 0), n := m.getLsbD 7, v := m.getLsbD 6 } })

/-- INC and DEC (R243, R244), every form: the operand has an address, the instruction completes, that cell holds the operand
plus or minus one modulo 256, every other cell is as it was, Z and N follow the result, C and V stay. On a mirrored address
(R253) the operand is the bank cell's byte, which stays, and repeating the instruction gives the same result and flags. -/
def Obligations.IncrementDecrementComplete : Prop :=
  ∀ (i : Instr) (s : State) (r : Byte),
    (i.op = .INC ∧ r = operandOf i s + 1 ∨ i.op = .DEC ∧ r = operandOf i s - 1) →
    ∃ a t, (instrRecord i s).loc = .addr a ∧ r = s.readByte a + (if i.op = .INC then 1 else 0xFF) ∧
      exec i s = .next t ∧ StoresOnly a r s t ∧
      t = { retired i s with mem := t.mem, flags := { s.flags with z := decide (r = 0), n := r.getLsbD 7 } } ∧
      (0x0800 ≤ a → a < 0x2000 →
        operandOf i s = s.cell (a &&& 0x07FF) ∧ t.cell (a &&& 0x07FF) = s.cell (a &&& 0x07FF) ∧
        ExecStores i t a r t.flags)

/-- ASL, LSR, ROL, ROR (R249 to R252), every form: with `v` the operand, `r` the shifted byte and `out` the bit that falls
out, C is `out`, Z and N follow `r`; in accumulator mode A holds `r` and no cell changes; in the other modes the operand's
cell holds `r` and A stays. The rotates shift in the old C. On a mirrored address (R253) the operand is the bank cell's
byte, which stays; repeating ASL or LSR gives the same result and flags. So does repeating any of the four with C put back
to what it was before the first run, and so does every repetition after the first one with nothing put back, since the bit
that falls out is the bank cell's; for the rotates that is as much of R253 as R251 and R252 leave (log 36). -/
def Obligations.ShiftsComplete : Prop :=
  ∀ (i : Instr) (s : State) (r : Byte) (out : Bool),
    let v := operandOf i s
    let f : Flags := { s.flags with c := out, z := decide (r = 0), n := r.getLsbD 7 }
    (i.op = .ASL ∧ r.toNat = 2 * v.toNat % 256 ∧ out = v.getLsbD 7 ∨
      i.op = .LSR ∧ r.toNat = v.toNat / 2 ∧ out = v.getLsbD 0 ∨
      i.op = .ROL ∧ r.toNat = 2 * v.toNat % 256 + (if s.flags.c then 1 else 0) ∧ out = v.getLsbD 7 ∨
      i.op = .ROR ∧ r.toNat = v.toNat / 2 + (if s.flags.c then 128 else 0) ∧ out = v.getLsbD 0) →
    (i.mode = .ACC → v = s.a ∧ exec i s = .next { retired i s with a := r, flags := f }) ∧
    (i.mode ≠ .ACC → ∃ a t, (instrRecord i s).loc = .addr a ∧ exec i s = .next t ∧ StoresOnly a r s t ∧
      t = { retired i s with mem := t.mem, flags := f } ∧
      (0x0800 ≤ a → a < 0x2000 →
        v = s.cell (a &&& 0x07FF) ∧ t.cell (a &&& 0x07FF) = v ∧
        (i.op = .ASL ∨ i.op = .LSR → ExecStores i t a r f) ∧ ExecStores i (t.setC s.flags.c) a r f ∧
        ∃ u, exec i t = .next u ∧ u.flags.c = out ∧ ExecStores i u a (u.cell a) u.flags))

/-! ## Control flow (reference handlers, D13) -/

/-- JMP and NOP (R271, R283): JMP absolute goes to its operand word; JMP indirect goes to the word at its pointer, or raises
the memory fault when the pointer is 0xFFFF and TOP_WRAP is fault (40_addressing_modes.md R141); NOP only retires. -/
def Obligations.JumpAndNopComplete : Prop :=
  ∀ (s : State) (a : Word),
    exec (.jmpAbs a) s = .next { retired (.jmpAbs a) s with pc := a } ∧
    (a ≠ 0xFFFF ∨ s.cfg.topWrap = .wrap →
      exec (.jmpInd a) s =
        .next { retired (.jmpInd a) s with pc := mkWord (s.readByte a) (s.readByte (a + 1)) }) ∧
    (a = 0xFFFF → s.cfg.topWrap = .fault → exec (.jmpInd a) s = .fault (.memory 0xFFFF)) ∧
    exec .nop s = .next (retired .nop s)

/-- JSR and RTS (R272, R273): JSR pushes the address of its own last byte, high byte first, and goes to its operand word; RTS
pops a word, low byte first, and goes to it plus one. -/
def Obligations.SubroutineCallAndReturnComplete : Prop :=
  ∀ (s : State) (a : Word),
    (∃ t, exec (.jsr a) s = .next t ∧
      t = { retired (.jsr a) s with pc := a, sp := s.sp - 2, mem := t.mem } ∧
      t.cell (stackAddr s.cfg (s.sp - 1)) = loByte (s.pc + 2) ∧
      (loByte s.cfg.stackBase = 0 → t.cell (stackAddr s.cfg s.sp) = hiByte (s.pc + 2)) ∧
      ∀ b, b ≠ stackAddr s.cfg s.sp → b ≠ stackAddr s.cfg (s.sp - 1) → t.cell b = s.cell b) ∧
    exec .rts s = .next { retired .rts s with
      sp := s.sp + 2
      pc := mkWord (s.readByte (stackAddr s.cfg (s.sp + 1))) (s.readByte (stackAddr s.cfg (s.sp + 2))) + 1 }

/-- A call is undone by its return (44_ref_control_flow.md R273): on an admissible configuration, JSR at `p` followed by RTS
continues at `p + 3` with the stack pointer restored. -/
def Obligations.ReturnFollowsCall : Prop :=
  ∀ (s t u : State) (a : Word), s.cfg.admissible = true → exec (.jsr a) s = .next t → exec .rts t = .next u →
    u.pc = s.pc + 3 ∧ u.sp = s.sp

/-- RTI (R274): the six flags from the first popped byte, then PC from the next two, low byte first, with no adjustment. -/
def Obligations.ReturnFromInterruptCompletes : Prop :=
  ∀ s : State, exec .rti s = .next { retired .rti s with
    flags := decodeStatus (s.readByte (stackAddr s.cfg (s.sp + 1)))
    pc := mkWord (s.readByte (stackAddr s.cfg (s.sp + 2))) (s.readByte (stackAddr s.cfg (s.sp + 3)))
    sp := s.sp + 3 }

/-- The conditional branches (R270, R275 to R282): taken, PC is the address after the branch plus the displacement read as a
signed byte, modulo 65536; not taken, PC is that address; nothing else changes but what retiring changes. -/
def Obligations.BranchesComplete : Prop :=
  ∀ (s : State) (d : Byte),
    let after := s.pc + 2
    let target := BitVec.ofInt 16 ((after.toNat : Int) + d.toInt)
    exec (.bcc d) s = .next { retired (.bcc d) s with pc := if s.flags.c = false then target else after } ∧
    exec (.bcs d) s = .next { retired (.bcs d) s with pc := if s.flags.c = true then target else after } ∧
    exec (.beq d) s = .next { retired (.beq d) s with pc := if s.flags.z = true then target else after } ∧
    exec (.bne d) s = .next { retired (.bne d) s with pc := if s.flags.z = false then target else after } ∧
    exec (.bmi d) s = .next { retired (.bmi d) s with pc := if s.flags.n = true then target else after } ∧
    exec (.bpl d) s = .next { retired (.bpl d) s with pc := if s.flags.n = false then target else after } ∧
    exec (.bvc d) s = .next { retired (.bvc d) s with pc := if s.flags.v = false then target else after } ∧
    exec (.bvs d) s = .next { retired (.bvs d) s with pc := if s.flags.v = true then target else after }

/-! ## Stack and flag operations (reference handlers, D13) -/

/-- PHA and PHP (R301, R302): A, or the status byte with the context bit set, is stored at the stack slot, every other cell
is as it was, SP goes down by one modulo 256, no flag changes. -/
def Obligations.PushesComplete : Prop :=
  ∀ (s : State) (i : Instr) (v : Byte), (i = .pha ∧ v = s.a ∨ i = .php ∧ v = encodeStatus s.flags true) →
    ∃ t, exec i s = .next t ∧ StoresOnly (stackAddr s.cfg s.sp) v s t ∧
      t = { retired i s with mem := t.mem, sp := s.sp - 1 }

/-- PLA and PLP (R303, R304): SP goes up by one modulo 256 and the byte there goes to A, with Z and N following it, or to the
six flags; no cell changes. -/
def Obligations.PullsComplete : Prop :=
  ∀ s : State,
    let v := s.readByte (stackAddr s.cfg (s.sp + 1))
    exec .pla s = .next { retired .pla s with
      a := v, sp := s.sp + 1, flags := { s.flags with z := decide (v = 0), n := v.getLsbD 7 } } ∧
    exec .plp s = .next { retired .plp s with sp := s.sp + 1, flags := decodeStatus v }

/-- The flag operations (R305 to R311): each writes its one flag and nothing else. -/
def Obligations.FlagOperationsComplete : Prop :=
  ∀ s : State,
    exec .clc s = .next { retired .clc s with flags := { s.flags with c := false } } ∧
    exec .sec s = .next { retired .sec s with flags := { s.flags with c := true } } ∧
    exec .cli s = .next { retired .cli s with flags := { s.flags with i := false } } ∧
    exec .sei s = .next { retired .sei s with flags := { s.flags with i := true } } ∧
    exec .cld s = .next { retired .cld s with flags := { s.flags with d := false } } ∧
    exec .sed s = .next { retired .sed s with flags := { s.flags with d := true } } ∧
    exec .clv s = .next { retired .clv s with flags := { s.flags with v := false } }

/-! ## Reset, load, power-on -/

/-- The reset operation (70_reset_and_hazards.md R361 to R365, read by decision D5, log 15): `last` cleared, X and Y zeroed,
PC the word at the reset vector, status idle, nothing else; or the memory fault if the vector is 0xFFFF under
TOP_WRAP = fault. -/
def Obligations.ResetOperationEffect : Prop :=
  ∀ s : State,
    (s.cfg.resetVector ≠ 0xFFFF ∨ s.cfg.topWrap = .wrap →
      resetOperation s = .next { s with
        last := none, x := 0, y := 0, es := .idle
        pc := mkWord (s.readByte s.cfg.resetVector) (s.readByte (s.cfg.resetVector + 1)) }) ∧
    (s.cfg.resetVector = 0xFFFF → s.cfg.topWrap = .fault → resetOperation s = .fault (.memory 0xFFFF))

/-- Power-on and the reset after it (10_state.md R46, 70_reset_and_hazards.md R360 to R365; decisions D4, D5, D14, D17), for
every configuration and every INIT. Power-on leaves the registers and flags as INIT gives them, every cell 0, the engine
idle, the counter 0 and the slot empty; the reset after it zeroes X and Y and loads PC with 0x0000 from the zero-filled
vector, or is the memory fault for a vector of 0xFFFF under TOP_WRAP = fault. State.reset is such a state, with the
reference configuration and the unspecified A, SP and flags at 0 (the model's choice, log 2, 3, 4), whatever X, Y and PC
were at power-on. -/
def Obligations.ResetStateIsPowerOnThenReset : Prop :=
  (∀ (cfg : Config) (init : Init),
    let s := powerOn cfg init
    (s.a = init.a ∧ s.x = init.x ∧ s.y = init.y ∧ s.sp = init.sp ∧ s.pc = init.pc ∧ s.flags = init.flags) ∧
    (∀ a : Word, s.cell a = 0 ∧ s.readByte a = 0) ∧ s.es = .idle ∧ s.pending = 0 ∧ s.last = none ∧ s.cfg = cfg ∧
    (cfg.resetVector ≠ 0xFFFF ∨ cfg.topWrap = .wrap →
      resetOperation s = .next { s with x := 0, y := 0, pc := 0x0000 }) ∧
    (cfg.resetVector = 0xFFFF → cfg.topWrap = .fault → resetOperation s = .fault (.memory 0xFFFF))) ∧
  (∀ (x y : Byte) (pc : Word),
    resetOperation (powerOn Config.ref
      { a := 0, x := x, y := y, sp := 0, pc := pc,
        flags := { c := false, z := false, i := false, d := false, v := false, n := false } }) = .next State.reset)

/-- The two loads (60_exceptions.md R333, 70_reset_and_hazards.md R371 to R374; decision D19, log 29), under either
TOP_WRAP. A sequence that does not fit is a load fault, before anything else. One that fits is copied to the cells from
PRG_BASE, the vector's two cells then hold PRG_BASE, and no other cell changes; but a vector constant of 0xFFFF under
TOP_WRAP = fault is the memory fault (R332, log 24). The test load changes nothing else, the engine status included (D15,
log 27). The production load also resets: that X and Y are then 0, the slot empty, and A, SP, the flags and the counter
kept is decision D5 (log 15), that the engine is idle is D15 (log 27), and these are the model's choices. PC is then the word
read at the vector, which on an admissible configuration is PRG_BASE, and there every byte of a program that 00_scope.md
R7 admits reads back. -/
def Obligations.LoadsCopyTheProgram : Prop :=
  ∀ (s : State) (bytes : List Byte),
    let base := s.cfg.prgBase
    let topFault (vector : Word) : Prop := vector = 0xFFFF ∧ s.cfg.topWrap = .fault
    let copied (vector : Word) (t : State) : Prop :=
      t.cell vector = loByte base ∧ t.cell (vector + 1) = hiByte base ∧
      ∀ a : Word, a ≠ vector → a ≠ vector + 1 →
        t.cell a = if base.toNat ≤ a.toNat ∧ a.toNat < base.toNat + bytes.length
          then bytes.getD (a.toNat - base.toNat) 0 else s.cell a
    (65536 < base.toNat + bytes.length →
      loadProduction bytes s = .fault (.load base bytes.length) ∧
      loadTest bytes s = .fault (.load base bytes.length)) ∧
    (base.toNat + bytes.length ≤ 65536 →
      (topFault s.cfg.testVector → loadTest bytes s = .fault (.memory 0xFFFF)) ∧
      (¬ topFault s.cfg.testVector →
        ∃ t, loadTest bytes s = .next t ∧ copied s.cfg.testVector t ∧ t = { s with mem := t.mem }) ∧
      (topFault s.cfg.resetVector → loadProduction bytes s = .fault (.memory 0xFFFF)) ∧
      (¬ topFault s.cfg.resetVector →
        ∃ t, loadProduction bytes s = .next t ∧ copied s.cfg.resetVector t ∧
          t = { s with mem := t.mem, last := none, x := 0, y := 0, es := .idle, pc := t.pc } ∧
          t.pc = mkWord (t.readByte s.cfg.resetVector) (t.readByte (s.cfg.resetVector + 1)) ∧
          (s.cfg.admissible = true → t.pc = base ∧
            (s.cfg.admitsProgram bytes.length = true →
              ∀ k : Nat, k < bytes.length → t.readByte (base + BitVec.ofNat 16 k) = bytes.getD k 0))))
end

