-- ==== Sys2Proof/Laws/Decode.lean ====
section
/-! SUPPORT. The byte-order helpers undo each other, the two decoders agree, and the opcode byte and the instruction
determine each other: what the encoder writes the decoder looks up, and what the decoder finds heads its encoding. -/

namespace Sys2Proof

theorem getLsbD_mkWord (lo hi : Byte) (k : Nat) :
    (mkWord lo hi).getLsbD k = if k < 8 then lo.getLsbD k else hi.getLsbD (k - 8) := by
  unfold mkWord
  exact BitVec.getLsbD_append

@[simp] theorem loByte_mkWord (lo hi : Byte) : loByte (mkWord lo hi) = lo := by
  apply BitVec.eq_of_getLsbD_eq
  intro k hk
  simp [loByte, getLsbD_mkWord, hk]

@[simp] theorem hiByte_mkWord (lo hi : Byte) : hiByte (mkWord lo hi) = hi := by
  apply BitVec.eq_of_getLsbD_eq
  intro k hk
  simp [hiByte, getLsbD_mkWord, hk]

@[simp] theorem mkWord_loByte_hiByte (w : Word) : mkWord (loByte w) (hiByte w) = w := by
  apply BitVec.eq_of_getLsbD_eq
  intro k hk
  rw [getLsbD_mkWord]
  split
  · next h => simp [loByte, h]
  · next h =>
    have h8 : k - 8 < 8 := by omega
    have hk8 : 8 + (k - 8) = k := by omega
    simp [hiByte, h8, hk8]

theorem toNat_loByte (w : Word) : (loByte w).toNat = w.toNat % 256 := by
  simp [loByte, BitVec.extractLsb'_toNat]

theorem toNat_hiByte (w : Word) : (hiByte w).toNat = w.toNat / 256 := by
  have := w.isLt
  simp [hiByte, BitVec.extractLsb'_toNat, Nat.shiftRight_eq_div_pow]
  omega

theorem toNat_mkWord (lo hi : Byte) : (mkWord lo hi).toNat = hi.toNat * 256 + lo.toNat := by
  have h1 := toNat_loByte (mkWord lo hi)
  have h2 := toNat_hiByte (mkWord lo hi)
  rw [loByte_mkWord] at h1
  rw [hiByte_mkWord] at h2
  omega

/-- The low byte of a zero-extended byte is that byte (10_state.md R40, field `arg`). -/
@[simp] theorem loByte_setWidth (b : Byte) : loByte (b.setWidth 16) = b := by
  apply BitVec.eq_of_toNat_eq
  rw [toNat_loByte]
  have := b.isLt
  simp only [BitVec.toNat_setWidth]
  omega

/-- The opcode byte of an instruction looks up to the form that takes the instruction's operand (30_encoding.md R104). -/
theorem decodeOpcode_opcode (i : Instr) :
    match i.operand with
    | .none => decodeOpcode i.opcode = some (.f1 i)
    | .byte b => ∃ f, decodeOpcode i.opcode = some (.f2 f) ∧ f b = i
    | .word w => ∃ f, decodeOpcode i.opcode = some (.f3 f) ∧ f w = i := by
  cases i <;> first | exact rfl | exact ⟨_, rfl, rfl⟩

/-- Every instruction of a form has the opcode byte and carries its operand bytes as they are. -/
def Form.heads (opc : Byte) : Form → Prop
  | .f1 i => i.opcode = opc ∧ i.operand = .none
  | .f2 f => ∀ b, (f b).opcode = opc ∧ (f b).operand = .byte b
  | .f3 f => ∀ w, (f w).opcode = opc ∧ (f w).operand = .word w

/-- All `decodeOpcode` can find: a form whose instructions have that opcode byte. -/
theorem heads_of_decodeOpcode {opc : Byte} {form : Form} (h : decodeOpcode opc = some form) : form.heads opc := by
  unfold decodeOpcode at h
  split at h
  all_goals first | (cases h; exact ⟨rfl, rfl⟩) | (cases h; exact fun _ => ⟨rfl, rfl⟩) | cases h

/-- The identity, mode, cycles and flag of a form do not depend on the operand bytes (30_encoding.md R108). -/
theorem entry_eq_of_decodeOpcode {opc : Byte} {form : Form} (h : decodeOpcode opc = some form) :
    match form with
    | .f1 _ => True
    | .f2 f => ∀ b b', (f b).entry = (f b').entry
    | .f3 f => ∀ w w', (f w).entry = (f w').entry := by
  unfold decodeOpcode at h
  split at h
  all_goals first | (cases h; exact fun _ _ => rfl) | (cases h; exact trivial) | cases h

/-- The opcode table gives the row of what the byte decodes to, whatever the operand bytes (30_encoding.md R108). -/
theorem optable_of_decodeBytes {opc b1 b2 : Byte} {i : Instr} (h : decodeBytes opc b1 b2 = some i) :
    optable opc = some i.entry := by
  unfold decodeBytes at h
  unfold optable decodeBytes
  cases hd : decodeOpcode opc with
  | none => simp [hd] at h
  | some form =>
    have he := entry_eq_of_decodeOpcode hd
    cases form with
    | f1 j =>
      simp only [hd, Option.some.injEq] at h
      rw [h]
      rfl
    | f2 f =>
      simp only [hd, Option.some.injEq] at h
      rw [← h]
      exact congrArg some (he _ _)
    | f3 f =>
      simp only [hd, Option.some.injEq] at h
      rw [← h]
      exact congrArg some (he _ _)

/-- A byte with no table row decodes to nothing (30_encoding.md R113). -/
theorem optable_eq_none_iff (opc b1 b2 : Byte) : optable opc = none ↔ decodeBytes opc b1 b2 = none := by
  unfold optable decodeBytes
  cases decodeOpcode opc with
  | none => simp
  | some form => cases form <;> simp

/-- The operand of what bytes decode to is made of the bytes after the opcode (30_encoding.md R102, R103). -/
theorem operand_of_decodeBytes {opc b1 b2 : Byte} {i : Instr} (h : decodeBytes opc b1 b2 = some i) :
    i.operand = .none ∨ i.operand = .byte b1 ∨ i.operand = .word (mkWord b1 b2) := by
  unfold decodeBytes at h
  cases hd : decodeOpcode opc with
  | none => simp [hd] at h
  | some form =>
    have hh := heads_of_decodeOpcode hd
    cases form with
    | f1 j =>
      simp only [hd, Option.some.injEq] at h
      rw [← h]
      exact .inl hh.2
    | f2 f =>
      simp only [hd, Option.some.injEq] at h
      rw [← h]
      exact .inr (.inl (hh _).2)
    | f3 f =>
      simp only [hd, Option.some.injEq] at h
      rw [← h]
      exact .inr (.inr (hh _).2)

/-- The length of an instruction is that of its operand (30_encoding.md R109). -/
theorem len_eq (i : Instr) : i.len = 1 + i.operand.bytes.length := by
  cases i <;> rfl

/-- Where three bytes decode as a list, `decodeBytes` gives the same instruction. -/
theorem decode_three (b0 b1 b2 : Byte) :
    (match decode [b0, b1, b2] with
      | .ok (i, _) => some i
      | .error _ => none) = decodeBytes b0 b1 b2 := by
  simp only [decode, decodeBytes]
  cases decodeOpcode b0 with
  | none => rfl
  | some f => cases f <;> rfl

end Sys2Proof
end

