-- ==== Sys2Proof/Laws/State.lean ====
section
/-! SUPPORT. One lemma per field of State per update, each true by rfl, so that no later proof unfolds a record update. -/

namespace Sys2Proof.Machine

@[simp] theorem State.setA_a (s : State) (v : Byte) : (s.setA v).a = v := rfl
@[simp] theorem State.setA_x (s : State) (v : Byte) : (s.setA v).x = s.x := rfl
@[simp] theorem State.setA_y (s : State) (v : Byte) : (s.setA v).y = s.y := rfl
@[simp] theorem State.setA_sp (s : State) (v : Byte) : (s.setA v).sp = s.sp := rfl
@[simp] theorem State.setA_pc (s : State) (v : Byte) : (s.setA v).pc = s.pc := rfl
@[simp] theorem State.setA_flags (s : State) (v : Byte) : (s.setA v).flags = s.flags := rfl
@[simp] theorem State.setA_mem (s : State) (v : Byte) : (s.setA v).mem = s.mem := rfl
@[simp] theorem State.setA_es (s : State) (v : Byte) : (s.setA v).es = s.es := rfl
@[simp] theorem State.setA_pending (s : State) (v : Byte) : (s.setA v).pending = s.pending := rfl
@[simp] theorem State.setA_last (s : State) (v : Byte) : (s.setA v).last = s.last := rfl
@[simp] theorem State.setA_cfg (s : State) (v : Byte) : (s.setA v).cfg = s.cfg := rfl

@[simp] theorem State.setX_a (s : State) (v : Byte) : (s.setX v).a = s.a := rfl
@[simp] theorem State.setX_x (s : State) (v : Byte) : (s.setX v).x = v := rfl
@[simp] theorem State.setX_y (s : State) (v : Byte) : (s.setX v).y = s.y := rfl
@[simp] theorem State.setX_sp (s : State) (v : Byte) : (s.setX v).sp = s.sp := rfl
@[simp] theorem State.setX_pc (s : State) (v : Byte) : (s.setX v).pc = s.pc := rfl
@[simp] theorem State.setX_flags (s : State) (v : Byte) : (s.setX v).flags = s.flags := rfl
@[simp] theorem State.setX_mem (s : State) (v : Byte) : (s.setX v).mem = s.mem := rfl
@[simp] theorem State.setX_es (s : State) (v : Byte) : (s.setX v).es = s.es := rfl
@[simp] theorem State.setX_pending (s : State) (v : Byte) : (s.setX v).pending = s.pending := rfl
@[simp] theorem State.setX_last (s : State) (v : Byte) : (s.setX v).last = s.last := rfl
@[simp] theorem State.setX_cfg (s : State) (v : Byte) : (s.setX v).cfg = s.cfg := rfl

@[simp] theorem State.setY_a (s : State) (v : Byte) : (s.setY v).a = s.a := rfl
@[simp] theorem State.setY_x (s : State) (v : Byte) : (s.setY v).x = s.x := rfl
@[simp] theorem State.setY_y (s : State) (v : Byte) : (s.setY v).y = v := rfl
@[simp] theorem State.setY_sp (s : State) (v : Byte) : (s.setY v).sp = s.sp := rfl
@[simp] theorem State.setY_pc (s : State) (v : Byte) : (s.setY v).pc = s.pc := rfl
@[simp] theorem State.setY_flags (s : State) (v : Byte) : (s.setY v).flags = s.flags := rfl
@[simp] theorem State.setY_mem (s : State) (v : Byte) : (s.setY v).mem = s.mem := rfl
@[simp] theorem State.setY_es (s : State) (v : Byte) : (s.setY v).es = s.es := rfl
@[simp] theorem State.setY_pending (s : State) (v : Byte) : (s.setY v).pending = s.pending := rfl
@[simp] theorem State.setY_last (s : State) (v : Byte) : (s.setY v).last = s.last := rfl
@[simp] theorem State.setY_cfg (s : State) (v : Byte) : (s.setY v).cfg = s.cfg := rfl

@[simp] theorem State.setSP_a (s : State) (v : Byte) : (s.setSP v).a = s.a := rfl
@[simp] theorem State.setSP_x (s : State) (v : Byte) : (s.setSP v).x = s.x := rfl
@[simp] theorem State.setSP_y (s : State) (v : Byte) : (s.setSP v).y = s.y := rfl
@[simp] theorem State.setSP_sp (s : State) (v : Byte) : (s.setSP v).sp = v := rfl
@[simp] theorem State.setSP_pc (s : State) (v : Byte) : (s.setSP v).pc = s.pc := rfl
@[simp] theorem State.setSP_flags (s : State) (v : Byte) : (s.setSP v).flags = s.flags := rfl
@[simp] theorem State.setSP_mem (s : State) (v : Byte) : (s.setSP v).mem = s.mem := rfl
@[simp] theorem State.setSP_es (s : State) (v : Byte) : (s.setSP v).es = s.es := rfl
@[simp] theorem State.setSP_pending (s : State) (v : Byte) : (s.setSP v).pending = s.pending := rfl
@[simp] theorem State.setSP_last (s : State) (v : Byte) : (s.setSP v).last = s.last := rfl
@[simp] theorem State.setSP_cfg (s : State) (v : Byte) : (s.setSP v).cfg = s.cfg := rfl

@[simp] theorem State.setPC_a (s : State) (t : Word) : (s.setPC t).a = s.a := rfl
@[simp] theorem State.setPC_x (s : State) (t : Word) : (s.setPC t).x = s.x := rfl
@[simp] theorem State.setPC_y (s : State) (t : Word) : (s.setPC t).y = s.y := rfl
@[simp] theorem State.setPC_sp (s : State) (t : Word) : (s.setPC t).sp = s.sp := rfl
@[simp] theorem State.setPC_pc (s : State) (t : Word) : (s.setPC t).pc = t := rfl
@[simp] theorem State.setPC_flags (s : State) (t : Word) : (s.setPC t).flags = s.flags := rfl
@[simp] theorem State.setPC_mem (s : State) (t : Word) : (s.setPC t).mem = s.mem := rfl
@[simp] theorem State.setPC_es (s : State) (t : Word) : (s.setPC t).es = s.es := rfl
@[simp] theorem State.setPC_pending (s : State) (t : Word) : (s.setPC t).pending = s.pending := rfl
@[simp] theorem State.setPC_last (s : State) (t : Word) : (s.setPC t).last = s.last := rfl
@[simp] theorem State.setPC_cfg (s : State) (t : Word) : (s.setPC t).cfg = s.cfg := rfl

@[simp] theorem State.setFlags_a (s : State) (f : Flags) : (s.setFlags f).a = s.a := rfl
@[simp] theorem State.setFlags_x (s : State) (f : Flags) : (s.setFlags f).x = s.x := rfl
@[simp] theorem State.setFlags_y (s : State) (f : Flags) : (s.setFlags f).y = s.y := rfl
@[simp] theorem State.setFlags_sp (s : State) (f : Flags) : (s.setFlags f).sp = s.sp := rfl
@[simp] theorem State.setFlags_pc (s : State) (f : Flags) : (s.setFlags f).pc = s.pc := rfl
@[simp] theorem State.setFlags_flags (s : State) (f : Flags) : (s.setFlags f).flags = f := rfl
@[simp] theorem State.setFlags_mem (s : State) (f : Flags) : (s.setFlags f).mem = s.mem := rfl
@[simp] theorem State.setFlags_es (s : State) (f : Flags) : (s.setFlags f).es = s.es := rfl
@[simp] theorem State.setFlags_pending (s : State) (f : Flags) : (s.setFlags f).pending = s.pending := rfl
@[simp] theorem State.setFlags_last (s : State) (f : Flags) : (s.setFlags f).last = s.last := rfl
@[simp] theorem State.setFlags_cfg (s : State) (f : Flags) : (s.setFlags f).cfg = s.cfg := rfl

@[simp] theorem State.setStatus_a (s : State) (e : EngineStatus) : (s.setStatus e).a = s.a := rfl
@[simp] theorem State.setStatus_x (s : State) (e : EngineStatus) : (s.setStatus e).x = s.x := rfl
@[simp] theorem State.setStatus_y (s : State) (e : EngineStatus) : (s.setStatus e).y = s.y := rfl
@[simp] theorem State.setStatus_sp (s : State) (e : EngineStatus) : (s.setStatus e).sp = s.sp := rfl
@[simp] theorem State.setStatus_pc (s : State) (e : EngineStatus) : (s.setStatus e).pc = s.pc := rfl
@[simp] theorem State.setStatus_flags (s : State) (e : EngineStatus) : (s.setStatus e).flags = s.flags := rfl
@[simp] theorem State.setStatus_mem (s : State) (e : EngineStatus) : (s.setStatus e).mem = s.mem := rfl
@[simp] theorem State.setStatus_es (s : State) (e : EngineStatus) : (s.setStatus e).es = e := rfl
@[simp] theorem State.setStatus_pending (s : State) (e : EngineStatus) : (s.setStatus e).pending = s.pending := rfl
@[simp] theorem State.setStatus_last (s : State) (e : EngineStatus) : (s.setStatus e).last = s.last := rfl
@[simp] theorem State.setStatus_cfg (s : State) (e : EngineStatus) : (s.setStatus e).cfg = s.cfg := rfl

@[simp] theorem State.setPending_a (s : State) (n : Nat) : (s.setPending n).a = s.a := rfl
@[simp] theorem State.setPending_x (s : State) (n : Nat) : (s.setPending n).x = s.x := rfl
@[simp] theorem State.setPending_y (s : State) (n : Nat) : (s.setPending n).y = s.y := rfl
@[simp] theorem State.setPending_sp (s : State) (n : Nat) : (s.setPending n).sp = s.sp := rfl
@[simp] theorem State.setPending_pc (s : State) (n : Nat) : (s.setPending n).pc = s.pc := rfl
@[simp] theorem State.setPending_flags (s : State) (n : Nat) : (s.setPending n).flags = s.flags := rfl
@[simp] theorem State.setPending_mem (s : State) (n : Nat) : (s.setPending n).mem = s.mem := rfl
@[simp] theorem State.setPending_es (s : State) (n : Nat) : (s.setPending n).es = s.es := rfl
@[simp] theorem State.setPending_pending (s : State) (n : Nat) : (s.setPending n).pending = n := rfl
@[simp] theorem State.setPending_last (s : State) (n : Nat) : (s.setPending n).last = s.last := rfl
@[simp] theorem State.setPending_cfg (s : State) (n : Nat) : (s.setPending n).cfg = s.cfg := rfl

@[simp] theorem State.setLast_a (s : State) (r : Option InstrRecord) : (s.setLast r).a = s.a := rfl
@[simp] theorem State.setLast_x (s : State) (r : Option InstrRecord) : (s.setLast r).x = s.x := rfl
@[simp] theorem State.setLast_y (s : State) (r : Option InstrRecord) : (s.setLast r).y = s.y := rfl
@[simp] theorem State.setLast_sp (s : State) (r : Option InstrRecord) : (s.setLast r).sp = s.sp := rfl
@[simp] theorem State.setLast_pc (s : State) (r : Option InstrRecord) : (s.setLast r).pc = s.pc := rfl
@[simp] theorem State.setLast_flags (s : State) (r : Option InstrRecord) : (s.setLast r).flags = s.flags := rfl
@[simp] theorem State.setLast_mem (s : State) (r : Option InstrRecord) : (s.setLast r).mem = s.mem := rfl
@[simp] theorem State.setLast_es (s : State) (r : Option InstrRecord) : (s.setLast r).es = s.es := rfl
@[simp] theorem State.setLast_pending (s : State) (r : Option InstrRecord) : (s.setLast r).pending = s.pending := rfl
@[simp] theorem State.setLast_last (s : State) (r : Option InstrRecord) : (s.setLast r).last = r := rfl
@[simp] theorem State.setLast_cfg (s : State) (r : Option InstrRecord) : (s.setLast r).cfg = s.cfg := rfl

@[simp] theorem State.writeByte_a (s : State) (addr : Word) (v : Byte) : (s.writeByte addr v).a = s.a := rfl
@[simp] theorem State.writeByte_x (s : State) (addr : Word) (v : Byte) : (s.writeByte addr v).x = s.x := rfl
@[simp] theorem State.writeByte_y (s : State) (addr : Word) (v : Byte) : (s.writeByte addr v).y = s.y := rfl
@[simp] theorem State.writeByte_sp (s : State) (addr : Word) (v : Byte) : (s.writeByte addr v).sp = s.sp := rfl
@[simp] theorem State.writeByte_pc (s : State) (addr : Word) (v : Byte) : (s.writeByte addr v).pc = s.pc := rfl
@[simp] theorem State.writeByte_flags (s : State) (addr : Word) (v : Byte) : (s.writeByte addr v).flags = s.flags := rfl
@[simp] theorem State.writeByte_mem (s : State) (addr : Word) (v : Byte) : (s.writeByte addr v).mem = s.mem.put addr.toNat v := rfl
@[simp] theorem State.writeByte_es (s : State) (addr : Word) (v : Byte) : (s.writeByte addr v).es = s.es := rfl
@[simp] theorem State.writeByte_pending (s : State) (addr : Word) (v : Byte) : (s.writeByte addr v).pending = s.pending := rfl
@[simp] theorem State.writeByte_last (s : State) (addr : Word) (v : Byte) : (s.writeByte addr v).last = s.last := rfl
@[simp] theorem State.writeByte_cfg (s : State) (addr : Word) (v : Byte) : (s.writeByte addr v).cfg = s.cfg := rfl

@[simp] theorem State.advance_a (s : State) (n : Nat) : (s.advance n).a = s.a := rfl
@[simp] theorem State.advance_x (s : State) (n : Nat) : (s.advance n).x = s.x := rfl
@[simp] theorem State.advance_y (s : State) (n : Nat) : (s.advance n).y = s.y := rfl
@[simp] theorem State.advance_sp (s : State) (n : Nat) : (s.advance n).sp = s.sp := rfl
@[simp] theorem State.advance_pc (s : State) (n : Nat) : (s.advance n).pc = s.pc + BitVec.ofNat 16 n := rfl
@[simp] theorem State.advance_flags (s : State) (n : Nat) : (s.advance n).flags = s.flags := rfl
@[simp] theorem State.advance_mem (s : State) (n : Nat) : (s.advance n).mem = s.mem := rfl
@[simp] theorem State.advance_es (s : State) (n : Nat) : (s.advance n).es = s.es := rfl
@[simp] theorem State.advance_pending (s : State) (n : Nat) : (s.advance n).pending = s.pending := rfl
@[simp] theorem State.advance_last (s : State) (n : Nat) : (s.advance n).last = s.last := rfl
@[simp] theorem State.advance_cfg (s : State) (n : Nat) : (s.advance n).cfg = s.cfg := rfl

@[simp] theorem State.charge_a (s : State) (r : InstrRecord) : (s.charge r).a = s.a := rfl
@[simp] theorem State.charge_x (s : State) (r : InstrRecord) : (s.charge r).x = s.x := rfl
@[simp] theorem State.charge_y (s : State) (r : InstrRecord) : (s.charge r).y = s.y := rfl
@[simp] theorem State.charge_sp (s : State) (r : InstrRecord) : (s.charge r).sp = s.sp := rfl
@[simp] theorem State.charge_pc (s : State) (r : InstrRecord) : (s.charge r).pc = s.pc := rfl
@[simp] theorem State.charge_flags (s : State) (r : InstrRecord) : (s.charge r).flags = s.flags := rfl
@[simp] theorem State.charge_mem (s : State) (r : InstrRecord) : (s.charge r).mem = s.mem := rfl
@[simp] theorem State.charge_es (s : State) (r : InstrRecord) : (s.charge r).es = s.es := rfl
@[simp] theorem State.charge_pending (s : State) (r : InstrRecord) : (s.charge r).pending = s.pending + cycleCharge r := rfl
@[simp] theorem State.charge_last (s : State) (r : InstrRecord) : (s.charge r).last = s.last := rfl
@[simp] theorem State.charge_cfg (s : State) (r : InstrRecord) : (s.charge r).cfg = s.cfg := rfl

@[simp] theorem State.spend_a (s : State) : s.spend.a = s.a := rfl
@[simp] theorem State.spend_x (s : State) : s.spend.x = s.x := rfl
@[simp] theorem State.spend_y (s : State) : s.spend.y = s.y := rfl
@[simp] theorem State.spend_sp (s : State) : s.spend.sp = s.sp := rfl
@[simp] theorem State.spend_pc (s : State) : s.spend.pc = s.pc := rfl
@[simp] theorem State.spend_flags (s : State) : s.spend.flags = s.flags := rfl
@[simp] theorem State.spend_mem (s : State) : s.spend.mem = s.mem := rfl
@[simp] theorem State.spend_es (s : State) : s.spend.es = s.es := rfl
@[simp] theorem State.spend_pending (s : State) : s.spend.pending = s.pending - 1 := rfl
@[simp] theorem State.spend_last (s : State) : s.spend.last = s.last := rfl
@[simp] theorem State.spend_cfg (s : State) : s.spend.cfg = s.cfg := rfl

end Sys2Proof.Machine
end

