-- ==== Sys2Proof/Laws/Memory.lean ====
section
/-! SUPPORT. The laws of the memory array and of the byte accesses: a read after a write to the same cell, every other
cell left alone, the canonical form kept, and equal reads of canonical memories meaning equal memories. -/

namespace Sys2Proof.Machine

@[simp] theorem Memory.cell_nil (a : Nat) : Memory.cell [] a = 0 := rfl

theorem Memory.cell_cons (k : Nat) (v : Byte) (m : Memory) (a : Nat) :
    Memory.cell ((k, v) :: m) a = if k = a then v else m.cell a := rfl

theorem Memory.cell_erase (m : Memory) (a b : Nat) : (m.erase a).cell b = if b = a then 0 else m.cell b := by
  induction m with
  | nil => simp [Memory.erase]
  | cons p m ih =>
    obtain ⟨k, v⟩ := p
    unfold Memory.erase at ih ⊢
    by_cases hk : k = a
    · subst hk
      simp only [List.filter_cons, bne_self_eq_false, Bool.false_eq_true, if_false, ih, Memory.cell_cons]
      by_cases hb : b = k
      · simp [hb]
      · simp [hb, Ne.symm hb]
    · simp only [List.filter_cons, bne_iff_ne, ne_eq, hk, not_false_iff, if_true, Memory.cell_cons, ih]
      by_cases hb : k = b
      · subst hb; simp [hk]
      · simp [hb]

theorem Memory.cell_insert (m : Memory) (a : Nat) (v : Byte) (b : Nat) (h : m.cell a = 0 ∨ b ≠ a)
    (ha : ∀ p ∈ m, p.1 ≠ a) : (m.insert a v).cell b = if b = a then v else m.cell b := by
  induction m with
  | nil => simp [Memory.insert, Memory.cell_cons, eq_comm]
  | cons p m ih =>
    obtain ⟨k, w⟩ := p
    have hk : k ≠ a := ha (k, w) (by simp)
    have hm : ∀ p ∈ m, p.1 ≠ a := fun p hp => ha p (by simp [hp])
    unfold Memory.insert
    split
    · simp [Memory.cell_cons, eq_comm]
    · have hi := ih (by simpa [Memory.cell_cons, hk] using h) hm
      simp only [Memory.cell_cons, hi]
      by_cases hb : k = b
      · subst hb; simp [hk]
      · simp [hb]

theorem Memory.erase_ne (m : Memory) (a : Nat) : ∀ p ∈ m.erase a, p.1 ≠ a := by
  intro p hp
  simpa using (List.mem_filter.1 hp).2

/-- Every read after a write: the written cell holds the byte written, every other cell what it held. -/
theorem Memory.cell_put (m : Memory) (a : Nat) (v : Byte) (b : Nat) :
    (m.put a v).cell b = if b = a then v else m.cell b := by
  unfold Memory.put
  split
  · next hv => simp [Memory.cell_erase, hv]
  · rw [Memory.cell_insert _ _ _ _ (by simp [Memory.cell_erase]) (m.erase_ne a), Memory.cell_erase]
    split <;> rfl

theorem Memory.wf_nil : Memory.wf [] := by simp [Memory.wf]

theorem Memory.wf_erase {m : Memory} (h : m.wf) (a : Nat) : (m.erase a).wf :=
  ⟨h.1.filter _, fun p hp => h.2 p (List.mem_filter.1 hp).1⟩

theorem Memory.mem_insert {m : Memory} {a : Nat} {v : Byte} {p : Host.Cell} (h : p ∈ m.insert a v) :
    p = (a, v) ∨ p ∈ m := by
  induction m with
  | nil => simpa [Memory.insert] using h
  | cons q m ih =>
    obtain ⟨k, w⟩ := q
    unfold Memory.insert at h
    split at h
    · simpa using h
    · rcases List.mem_cons.1 h with rfl | h
      · exact .inr (by simp)
      · exact (ih h).imp id fun h => by simp [h]

theorem Memory.wf_insert {m : Memory} (h : m.wf) {a : Nat} {v : Byte} (ha : a < 65536) (hv : v ≠ 0)
    (hne : ∀ p ∈ m, p.1 ≠ a) : (m.insert a v).wf := by
  refine ⟨?_, fun p hp => (Memory.mem_insert hp).elim (fun e => by simpa [e] using ⟨ha, hv⟩) (h.2 p)⟩
  have hp := h.1
  clear h
  induction m with
  | nil => simp [Memory.insert]
  | cons q m ih =>
    obtain ⟨k, w⟩ := q
    obtain ⟨hk, hm⟩ := List.pairwise_cons.1 hp
    unfold Memory.insert
    split
    · next hak =>
      refine List.pairwise_cons.2 ⟨fun p hp' => ?_, hp⟩
      rcases List.mem_cons.1 hp' with rfl | hp'
      · exact hak
      · exact lt_trans hak (hk p hp')
    · next hak =>
      have hka : k ≠ a := hne (k, w) (by simp)
      refine List.pairwise_cons.2 ⟨fun p hp' => ?_, ih (fun p hp => hne p (by simp [hp])) hm⟩
      rcases Memory.mem_insert hp' with rfl | hp'
      · exact lt_of_le_of_ne (not_lt.1 hak) hka
      · exact hk p hp'

/-- A write keeps the canonical form. -/
theorem Memory.wf_put {m : Memory} (h : m.wf) {a : Nat} (ha : a < 65536) (v : Byte) : (m.put a v).wf := by
  unfold Memory.put
  split
  · exact Memory.wf_erase h a
  · next hv => exact Memory.wf_insert (Memory.wf_erase h a) ha hv (m.erase_ne a)

theorem Memory.cell_eq_zero_of_forall_lt {m : Memory} {a : Nat} (h : ∀ p ∈ m, a < p.1) : m.cell a = 0 := by
  induction m with
  | nil => rfl
  | cons q m ih =>
    obtain ⟨k, w⟩ := q
    have hk : a < k := h (k, w) (by simp)
    rw [Memory.cell_cons, if_neg (by omega)]
    exact ih fun p hp => h p (by simp [hp])

theorem Memory.wf_tail {p : Host.Cell} {m : Memory} (h : Memory.wf (p :: m)) : Memory.wf m :=
  ⟨(List.pairwise_cons.1 h.1).2, fun q hq => h.2 q (by simp [hq])⟩

/-- The head of a canonical memory is the least cell that differs from 0. -/
theorem Memory.head_le {k k' : Nat} {v v' : Byte} {m m' : Memory} (h' : Memory.wf ((k', v') :: m'))
    (hv : v ≠ 0) (he : ∀ a, Memory.cell ((k, v) :: m) a = Memory.cell ((k', v') :: m') a) : k' ≤ k := by
  by_contra hlt
  have h0 : Memory.cell ((k', v') :: m') k = 0 := by
    apply Memory.cell_eq_zero_of_forall_lt
    intro p hp
    rcases List.mem_cons.1 hp with rfl | hp
    · exact not_le.1 hlt
    · exact lt_trans (not_le.1 hlt) ((List.pairwise_cons.1 h'.1).1 p hp)
  have := he k
  rw [h0, Memory.cell_cons, if_pos rfl] at this
  exact hv this

/-- Canonical memories that read the same are the same. -/
theorem Memory.ext_of_wf {m m' : Memory} (h : m.wf) (h' : m'.wf) (he : ∀ a, m.cell a = m'.cell a) : m = m' := by
  induction m generalizing m' with
  | nil =>
    cases m' with
    | nil => rfl
    | cons q m' =>
      obtain ⟨k, v⟩ := q
      have := he k
      rw [Memory.cell_cons, if_pos rfl] at this
      exact absurd this.symm (h'.2 (k, v) (by simp)).2
  | cons p m ih =>
    obtain ⟨k, v⟩ := p
    have hv : v ≠ 0 := (h.2 (k, v) (by simp)).2
    cases m' with
    | nil =>
      have := he k
      rw [Memory.cell_cons, if_pos rfl] at this
      exact absurd this hv
    | cons q m' =>
      obtain ⟨k', v'⟩ := q
      have hv' : v' ≠ 0 := (h'.2 (k', v') (by simp)).2
      have hkk : k = k' :=
        le_antisymm (Memory.head_le h hv' fun a => (he a).symm) (Memory.head_le h' hv he)
      subst hkk
      have hvv : v = v' := by simpa [Memory.cell_cons] using he k
      subst hvv
      rw [ih (Memory.wf_tail h) (Memory.wf_tail h') fun a => ?_]
      have hlow : ∀ {l : Memory}, Memory.wf ((k, v) :: l) → Memory.cell l k = 0 := fun hl =>
        Memory.cell_eq_zero_of_forall_lt (List.pairwise_cons.1 hl.1).1
      by_cases hak : k = a
      · subst hak; rw [hlow h, hlow h']
      · simpa [Memory.cell_cons, hak] using he a

/-! ## The byte accesses -/

/-- A write stores into the addressed cell itself and no other (20_memory.md R63). -/
theorem State.cell_writeByte (s : State) (a : Word) (v : Byte) (b : Word) :
    (s.writeByte a v).cell b = if b = a then v else s.cell b := by
  simp only [State.cell, State.writeByte, Memory.cell_put]
  by_cases h : b = a
  · simp [h]
  · have : b.toNat ≠ a.toNat := fun e => h (BitVec.eq_of_toNat_eq e)
    simp [h, this]

/-- A byte write keeps the canonical form of memory. -/
theorem State.writeByte_wf {s : State} (h : s.mem.wf) (a : Word) (v : Byte) : (s.writeByte a v).mem.wf :=
  Memory.wf_put h a.isLt v

/-- A read of a plain address is a read of its cell (20_memory.md R62). -/
theorem eff_of_plain {a : Word} (h : a < 0x0800 ∨ 0x2000 ≤ a) : eff a = a := by
  unfold eff
  split
  · next hlt =>
    have ha : a < 0x0800 := h.resolve_right (by bv_omega)
    apply BitVec.eq_of_toNat_eq
    have hn : a.toNat < 2 ^ 11 := by simpa [BitVec.lt_def] using ha
    have e : (0x07FF : Word).toNat = 2 ^ 11 - 1 := rfl
    rw [BitVec.toNat_and, e, Nat.and_two_pow_sub_one_eq_mod, Nat.mod_eq_of_lt hn]
  · rfl

/-- A read never uses an unreadable cell (20_memory.md R64). -/
theorem eff_plain (a : Word) : eff a < 0x0800 ∨ 0x2000 ≤ eff a := by
  unfold eff
  split
  · left
    rw [BitVec.lt_def, BitVec.toNat_and]
    have : a.toNat &&& (0x07FF : Word).toNat ≤ 0x07FF := Nat.and_le_right
    simp only [BitVec.reduceToNat] at this ⊢
    omega
  · next h => exact .inr (by bv_omega)

@[simp] theorem State.cell_setA (s : State) (v : Byte) (b : Word) : (s.setA v).cell b = s.cell b := rfl
@[simp] theorem State.cell_setX (s : State) (v : Byte) (b : Word) : (s.setX v).cell b = s.cell b := rfl
@[simp] theorem State.cell_setY (s : State) (v : Byte) (b : Word) : (s.setY v).cell b = s.cell b := rfl
@[simp] theorem State.cell_setSP (s : State) (v : Byte) (b : Word) : (s.setSP v).cell b = s.cell b := rfl
@[simp] theorem State.cell_setPC (s : State) (t : Word) (b : Word) : (s.setPC t).cell b = s.cell b := rfl
@[simp] theorem State.cell_setFlags (s : State) (f : Flags) (b : Word) : (s.setFlags f).cell b = s.cell b := rfl
@[simp] theorem State.cell_setStatus (s : State) (e : EngineStatus) (b : Word) : (s.setStatus e).cell b = s.cell b := rfl
@[simp] theorem State.cell_setPending (s : State) (n : Nat) (b : Word) : (s.setPending n).cell b = s.cell b := rfl
@[simp] theorem State.cell_setLast (s : State) (r : Option InstrRecord) (b : Word) : (s.setLast r).cell b = s.cell b := rfl

/-- Reads depend on memory alone. -/
theorem State.readByte_congr {s t : State} (h : s.mem = t.mem) (a : Word) : s.readByte a = t.readByte a := by
  simp [State.readByte, State.cell, h]

theorem wordFaults_iff (cfg : Config) (pos : Word) :
    wordFaults cfg pos = true ↔ pos = 0xFFFF ∧ cfg.topWrap = .fault := by
  simp [wordFaults]

/-- Away from the top of memory, or under `wrap`, a word access does not fault (20_memory.md R68). -/
theorem wordFaults_eq_false {cfg : Config} {pos : Word} (h : cfg.topWrap = .wrap ∨ pos ≠ 0xFFFF) :
    wordFaults cfg pos = false := by
  rcases h with h | h
  · simp [wordFaults, h]
  · rw [wordFaults, beq_eq_false_iff_ne.2 h]
    rfl

/-- All a word read can do (20_memory.md R66, R68). -/
theorem State.readWord_cases (s : State) (pos : Word) :
    (wordFaults s.cfg pos = true ∧ s.readWord pos = .error (.memory pos)) ∨
    (wordFaults s.cfg pos = false ∧ s.readWord pos = .ok (s.wordAt pos)) := by
  unfold State.readWord
  cases wordFaults s.cfg pos <;> simp

/-- A word write that does not fault is two byte writes, low then high (20_memory.md R67). -/
theorem State.writeWord_ok {s t : State} {pos w : Word} (h : s.writeWord pos w = .ok t) :
    t = (s.writeByte pos (loByte w)).writeByte (pos + 1) (hiByte w) := by
  unfold State.writeWord at h
  split at h
  · cases h
  · exact (Except.ok.inj h).symm

end Sys2Proof.Machine
end

