-- ==== Sys2Proof/Laws/Stack.lean ====
section
/-! SUPPORT. The laws of the stack controller: what push and pop do to each field, and where the slots lie. Every memory
operation keeps the canonical form. -/

namespace Sys2Proof.Machine

@[simp] theorem State.push_a (s : State) (v : Byte) : (s.push v).a = s.a := rfl
@[simp] theorem State.push_x (s : State) (v : Byte) : (s.push v).x = s.x := rfl
@[simp] theorem State.push_y (s : State) (v : Byte) : (s.push v).y = s.y := rfl
@[simp] theorem State.push_sp (s : State) (v : Byte) : (s.push v).sp = s.sp - 1 := rfl
@[simp] theorem State.push_pc (s : State) (v : Byte) : (s.push v).pc = s.pc := rfl
@[simp] theorem State.push_flags (s : State) (v : Byte) : (s.push v).flags = s.flags := rfl
@[simp] theorem State.push_es (s : State) (v : Byte) : (s.push v).es = s.es := rfl
@[simp] theorem State.push_pending (s : State) (v : Byte) : (s.push v).pending = s.pending := rfl
@[simp] theorem State.push_last (s : State) (v : Byte) : (s.push v).last = s.last := rfl
@[simp] theorem State.push_cfg (s : State) (v : Byte) : (s.push v).cfg = s.cfg := rfl

/-- A push stores at the slot of the pointer and in no other cell (20_memory.md R79). -/
theorem State.cell_push (s : State) (v : Byte) (b : Word) :
    (s.push v).cell b = if b = stackAddr s.cfg s.sp then v else s.cell b :=
  s.cell_writeByte (stackAddr s.cfg s.sp) v b

/-- A pop reads at the slot above the pointer and moves the pointer there, and nothing else (20_memory.md R80). -/
theorem State.pop_eq (s : State) : s.pop = (s.readByte (stackAddr s.cfg (s.sp + 1)), s.setSP (s.sp + 1)) := rfl

/-- A word pop reads the two slots above the pointer, low byte first (20_memory.md R82). -/
theorem State.pop16_eq (s : State) :
    s.pop16 = (mkWord (s.readByte (stackAddr s.cfg (s.sp + 1))) (s.readByte (stackAddr s.cfg (s.sp + 1 + 1))),
      s.setSP (s.sp + 1 + 1)) := rfl

/-- A word push is the high byte, then the low byte (20_memory.md R81). -/
theorem State.push16_eq (s : State) (w : Word) : s.push16 w = (s.push (hiByte w)).push (loByte w) := rfl

/-! ## Where the slots lie -/

theorem plainAddress_iff (a : Word) : plainAddress a = true ↔ a.toNat < 0x0800 ∨ 0x2000 ≤ a.toNat := by
  simp [plainAddress, BitVec.lt_def, BitVec.le_def]

/-- With an aligned stack page the slot of a pointer is that far into the page (20_memory.md R78, 00_scope.md R7 (a)). -/
theorem stackAddr_toNat {cfg : Config} (h : loByte cfg.stackBase = 0) (sp : Byte) :
    (stackAddr cfg sp).toNat = cfg.stackBase.toNat + sp.toNat := by
  have h0 : cfg.stackBase.toNat % 256 = 0 := by
    have := toNat_loByte cfg.stackBase
    rw [h] at this
    simpa using this.symm
  have hs := sp.isLt
  unfold stackAddr
  rw [BitVec.toNat_or]
  simp only [BitVec.truncate_eq_setWidth, BitVec.toNat_setWidth]
  rw [Nat.mod_eq_of_lt (by omega : sp.toNat < 2 ^ 16)]
  have hb : cfg.stackBase.toNat = 2 ^ 8 * (cfg.stackBase.toNat / 256) := by omega
  rw [hb, Nat.two_pow_add_eq_or_of_lt hs]

/-- Different pointers have different slots. -/
theorem stackAddr_inj {cfg : Config} (h : loByte cfg.stackBase = 0) {p q : Byte} :
    stackAddr cfg p = stackAddr cfg q ↔ p = q := by
  constructor
  · intro e
    have := congrArg BitVec.toNat e
    rw [stackAddr_toNat h, stackAddr_toNat h] at this
    exact BitVec.eq_of_toNat_eq (by omega)
  · rintro rfl
    rfl

/-- Where the stack page is plain, a read of a slot is a read of its cell (20_memory.md R83). -/
theorem eff_stackAddr {cfg : Config} (h : loByte cfg.stackBase = 0) (hp : plainAddress cfg.stackBase = true)
    (sp : Byte) : eff (stackAddr cfg sp) = stackAddr cfg sp := by
  have hn := stackAddr_toNat h sp
  have h0 : cfg.stackBase.toNat % 256 = 0 := by
    have := toNat_loByte cfg.stackBase
    rw [h] at this
    simpa using this.symm
  have hs := sp.isLt
  rw [plainAddress_iff] at hp
  apply eff_of_plain
  simp only [BitVec.lt_def, BitVec.le_def, hn, BitVec.reduceToNat]
  omega

/-! ## Every memory operation keeps the canonical form -/

theorem State.push_wf {s : State} (h : s.mem.wf) (v : Byte) : (s.push v).mem.wf := State.writeByte_wf h _ v

theorem State.push16_wf {s : State} (h : s.mem.wf) (w : Word) : (s.push16 w).mem.wf :=
  State.push_wf (State.push_wf h _) _

theorem State.writeWord_wf {s t : State} (h : s.mem.wf) {pos w : Word} (hw : s.writeWord pos w = .ok t) : t.mem.wf := by
  rw [State.writeWord_ok hw]
  exact State.writeByte_wf (State.writeByte_wf h _ _) _ _

end Sys2Proof.Machine
end

