-- ==== Sys2Proof/Laws/Exec.lean ====
section
/-! SUPPORT. What the shared operations around a handler can do: one equation that takes exec to the handler map, one
inversion lemma for `perform`, one for `step`, and the same for the engine over any table and handlers. Later proofs cite
these and do not unfold the 151 meanings. -/

namespace Sys2Proof.Machine

/-- Every arm of exec performs the reference handler of its operation, or halts for break (41_engine_step.md R174, R171). -/
theorem exec_eq (i : Instr) (s : State) :
    exec i s = match handlerOf i.op with
      | none => haltOnBreak i s
      | some h => perform i h s := by
  cases i <;> rfl

theorem handlerOf_eq_none (op : Op) : handlerOf op = none ↔ op = .BRK ∨ ∃ n, op = .other n := by
  cases op <;> simp [handlerOf]

/-- No row of the reference table has an identity outside the reference set (30_encoding.md R111). -/
theorem op_ne_other (i : Instr) (n : Nat) : i.op ≠ .other n := by
  cases i <;> exact fun h => by cases h

/-- An instruction other than break performs its handler. -/
theorem exec_of_handler {i : Instr} {h : Handler} (hi : handlerOf i.op = some h) (s : State) :
    exec i s = perform i h s := by
  rw [exec_eq, hi]

/-- The state a handler starts from: `last` written, PC advanced (41_engine_step.md R160, steps 2 to 5). -/
def State.atHandler (i : Instr) (s : State) : State := (s.setLast (some (instrRecord i s))).advance i.len

/-- All `perform` can do when it answers next: resolution raised no fault, the handler succeeded from the state with
`last` written and PC advanced, and the cycles were charged. -/
theorem perform_next {i : Instr} {h : Handler} {s t : State} (hp : perform i h s = .next t) :
    resolutionFault i.mode i.arg s = none ∧
      ∃ u, h (instrRecord i s) (s.atHandler i) = .ok u ∧ t = u.charge (instrRecord i s) := by
  unfold perform at hp
  split at hp
  · cases hp
  · next hf =>
    refine ⟨hf, ?_⟩
    simp only [runHandler] at hp
    split at hp
    · cases hp
    · next u hu => exact ⟨u, hu, by cases hp; rfl⟩

/-- `perform` where nothing stops it. -/
theorem perform_ok {i : Instr} {h : Handler} {s u : State} (hf : resolutionFault i.mode i.arg s = none)
    (hu : h (instrRecord i s) (s.atHandler i) = .ok u) : perform i h s = .next (u.charge (instrRecord i s)) := by
  unfold perform
  rw [hf]
  simp only [runHandler]
  unfold State.atHandler at hu
  have hl : (instrRecord i s).len = i.len := rfl
  rw [hl, hu]

/-- Only the IND mode can fault after its operand bytes are read (40_addressing_modes.md R141, R146). -/
theorem resolutionFault_of_ne_ind {m : Mode} (h : m ≠ .IND) (arg : Word) (s : State) :
    resolutionFault m arg s = none := by
  simp [resolutionFault, h]

/-- JMP is the one operation with an IND row (30_encoding.md R112). -/
theorem mode_ne_ind {i : Instr} (h : i.op ≠ .JMP) : i.mode ≠ .IND := by
  cases i <;> first | exact absurd rfl h | (intro hm; cases hm)

/-- An instruction other than JMP and break runs its handler from `atHandler` and charges its cycles. -/
theorem exec_ok {i : Instr} {h : Handler} {s u : State} (hi : handlerOf i.op = some h) (hj : i.op ≠ .JMP)
    (hu : h (instrRecord i s) (s.atHandler i) = .ok u) : exec i s = .next (u.charge (instrRecord i s)) := by
  rw [exec_of_handler hi]
  exact perform_ok (resolutionFault_of_ne_ind (mode_ne_ind hj) _ _) hu

@[simp] theorem State.atHandler_a (i : Instr) (s : State) : (s.atHandler i).a = s.a := rfl
@[simp] theorem State.atHandler_x (i : Instr) (s : State) : (s.atHandler i).x = s.x := rfl
@[simp] theorem State.atHandler_y (i : Instr) (s : State) : (s.atHandler i).y = s.y := rfl
@[simp] theorem State.atHandler_sp (i : Instr) (s : State) : (s.atHandler i).sp = s.sp := rfl
@[simp] theorem State.atHandler_pc (i : Instr) (s : State) : (s.atHandler i).pc = s.pc + BitVec.ofNat 16 i.len := rfl
@[simp] theorem State.atHandler_flags (i : Instr) (s : State) : (s.atHandler i).flags = s.flags := rfl
@[simp] theorem State.atHandler_mem (i : Instr) (s : State) : (s.atHandler i).mem = s.mem := rfl
@[simp] theorem State.atHandler_es (i : Instr) (s : State) : (s.atHandler i).es = s.es := rfl
@[simp] theorem State.atHandler_pending (i : Instr) (s : State) : (s.atHandler i).pending = s.pending := rfl
@[simp] theorem State.atHandler_last (i : Instr) (s : State) : (s.atHandler i).last = some (instrRecord i s) := rfl
@[simp] theorem State.atHandler_cfg (i : Instr) (s : State) : (s.atHandler i).cfg = s.cfg := rfl

/-- The operand a handler reads is the one the state before the instruction holds. -/
@[simp] theorem operandRead_atHandler (ins : InstrRecord) (i : Instr) (s : State) :
    operandRead ins (s.atHandler i) = operandRead ins s := rfl

/-- An operand write is a byte write or a write of A; it keeps the canonical form of memory (41_engine_step.md R177). -/
theorem operandWrite_wf {s : State} (h : s.mem.wf) (ins : InstrRecord) (v : Byte) : (operandWrite ins v s).mem.wf := by
  unfold operandWrite
  split
  · exact State.writeByte_wf h _ _
  · exact h

/-- A copy changes memory alone (70_reset_and_hazards.md R371). -/
theorem copyFrom_eq (base : Word) (bytes : List Byte) (s : State) :
    copyFrom base bytes s = { s with mem := (copyFrom base bytes s).mem } := by
  induction bytes generalizing base s with
  | nil => rfl
  | cons v rest ih =>
    simp only [copyFrom]
    rw [ih]
    rfl

/-- A copy keeps the canonical form of memory. -/
theorem copyFrom_wf {s : State} (h : s.mem.wf) (base : Word) (bytes : List Byte) : (copyFrom base bytes s).mem.wf := by
  induction bytes generalizing base s with
  | nil => exact h
  | cons v rest ih => exact ih (State.writeByte_wf h _ _) _

/-- All a reset can do: fault at the vector, or clear `last`, zero X and Y, load PC, and leave the engine idle
(70_reset_and_hazards.md R361 to R365). -/
theorem resetOperation_next {s t : State} (h : resetOperation s = .next t) :
    wordFaults s.cfg s.cfg.resetVector = false ∧
      t = ((((s.setLast none).setX 0).setY 0).setPC (s.wordAt s.cfg.resetVector)).setStatus .idle := by
  unfold resetOperation at h
  rcases s.readWord_cases s.cfg.resetVector with ⟨-, h'⟩ | ⟨hw, h'⟩
  · rw [h'] at h
    cases h
  · rw [h'] at h
    cases h
    exact ⟨hw, rfl⟩

/-- All a load can do: stop, or change memory alone and keep its canonical form (70_reset_and_hazards.md R373, R374). -/
theorem loadAt_ok {vector : Word} {bytes : List Byte} {s t : State} (h : loadAt vector bytes s = .ok t) :
    t = { s with mem := t.mem } ∧ (s.mem.wf → t.mem.wf) := by
  unfold loadAt at h
  split at h
  · cases h
  · constructor
    · rw [State.writeWord_ok h, copyFrom_eq]
      rfl
    · intro hw
      exact State.writeWord_wf (copyFrom_wf hw _ _) h

/-- All `fetchDecode` can do: the opcode byte has no entry, the two-byte operand fetch is at the top of memory under the
faulting policy, or the bytes at PC decode (60_exceptions.md R335). -/
theorem fetchDecode_ok {s : State} {i : Instr} (h : fetchDecode s = .ok i) :
    decodeBytes (s.readByte s.pc) (s.readByte (s.pc + 1)) (s.readByte (s.pc + 2)) = some i ∧
      (i.len == 3 && wordFaults s.cfg (s.pc + 1)) = false := by
  unfold fetchDecode at h
  simp only at h
  split at h
  · cases h
  · next j hj =>
    split at h
    · cases h
    · next hw => cases h; exact ⟨hj, by simpa using hw⟩

/-- Fetching looks at memory, PC and the configuration alone (41_engine_step.md R168). -/
theorem fetchDecode_congr {s t : State} (hm : t.mem = s.mem) (hp : t.pc = s.pc) (hc : t.cfg = s.cfg) :
    fetchDecode t = fetchDecode s := by
  unfold fetchDecode
  simp only [State.readByte_congr hm, hp, hc]

/-- The running state with the counter spent, on which an iteration executes, fetches what the state before it fetches. -/
@[simp] theorem fetchDecode_spend (s : State) (e : EngineStatus) : fetchDecode (s.setStatus e).spend = fetchDecode s :=
  fetchDecode_congr rfl rfl rfl

/-- Resolution looks at memory, the index registers and the configuration alone (40_addressing_modes.md R131). -/
@[simp] theorem instrRecord_spend (i : Instr) (s : State) (e : EngineStatus) :
    instrRecord i (s.setStatus e).spend = instrRecord i s := rfl

/-- What `Resolve` reads as its raw argument, by the operand of an instruction of that mode (40_addressing_modes.md R131). -/
theorem operandArg_eq (i : Instr) (pc : Word) (s : State) :
    operandArg i.mode pc s = match i.operand with
      | .none => .ok 0
      | .byte _ => .ok ((s.readByte (pc + 1)).zeroExtend 16)
      | .word _ => s.readWord (pc + 1) := by
  cases i <;> rfl

/-- What `Resolve` reads from memory is the argument the decoder took from the same bytes. -/
theorem operandArg_of_decodeBytes {s : State} {opc : Byte} {pc : Word} {i : Instr}
    (h : decodeBytes opc (s.readByte (pc + 1)) (s.readByte (pc + 2)) = some i) :
    operandArg i.mode pc s =
      if i.len == 3 && wordFaults s.cfg (pc + 1) then .error (.memory (pc + 1)) else .ok i.arg := by
  have e2 : pc + 2 = pc + 1 + 1 := by bv_omega
  rw [operandArg_eq, len_eq]
  rcases operand_of_decodeBytes h with ho | ho | ho
  · simp [ho, Instr.arg, Operand.bytes]
  · simp [ho, Instr.arg, Operand.bytes]
  · rw [e2] at ho
    simp only [ho, Instr.arg, Operand.bytes, State.readWord, State.wordAt]
    rfl

/-- Where the bytes at PC decode and the operand fetch does not fault, `fetchDecode` gives the instruction. -/
theorem fetchDecode_of_decodeBytes {s : State} {i : Instr}
    (hd : decodeBytes (s.readByte s.pc) (s.readByte (s.pc + 1)) (s.readByte (s.pc + 2)) = some i)
    (hw : ¬ (i.len = 3 ∧ s.pc + 1 = 0xFFFF ∧ s.cfg.topWrap = .fault)) : fetchDecode s = .ok i := by
  unfold fetchDecode
  simp only [hd]
  rw [if_neg]
  simpa only [Bool.and_eq_true, beq_iff_eq, wordFaults_iff] using hw

/-- All `step` can do: a halted engine stays as it is, the sentinel halts, or the fetched instruction executes on the
running state with the counter spent (41_engine_step.md R183, R184, R186). -/
theorem step_cases (s : State) :
    (s.es = .halted ∧ step s = .next s) ∨
    (s.es ≠ .halted ∧ s.pc = s.cfg.breakSentinel ∧ step s = .next (s.setStatus .halted)) ∨
    (s.es ≠ .halted ∧ s.pc ≠ s.cfg.breakSentinel ∧ step s = fetchExecute (s.setStatus .running).spend) := by
  unfold step runIteration
  cases he : s.es with
  | halted => exact .inl ⟨rfl, rfl⟩
  | idle => by_cases hp : s.pc = s.cfg.breakSentinel <;> simp [hp]
  | running => by_cases hp : s.pc = s.cfg.breakSentinel <;> simp [hp]

/-- What a step that executed an instruction went through. -/
theorem fetchExecute_next {s t : State} (h : fetchExecute s = .next t) :
    ∃ i, fetchDecode s = .ok i ∧ exec i s = .next t := by
  unfold fetchExecute at h
  split at h
  · cases h
  · next i hi => exact ⟨i, hi, h⟩

/-! ## The engine over any opcode table and any handlers -/

@[simp] theorem EngineInputs.ref_optable : EngineInputs.ref.optable = Sys2Proof.optable := rfl
@[simp] theorem EngineInputs.ref_handlers : EngineInputs.ref.handlers = handlerOf := rfl

/-- What decoding succeeded from (41_engine_step.md R169). -/
theorem decodeRecord_ok {table : Byte → Option Entry} {s : State} {ins : InstrRecord}
    (h : decodeRecord table s = .ok ins) :
    ∃ e r, table (s.readByte s.pc) = some e ∧ resolve e.mode s.pc s = .ok r ∧ ins = mkRecord e r := by
  unfold decodeRecord at h
  split at h
  · cases h
  · next e he =>
    split at h
    · cases h
    · next r hr => cases h; exact ⟨e, r, he, hr, rfl⟩

/-- Where the opcode has an entry and resolution raises no fault, decoding gives their record. -/
theorem decodeRecord_of_resolve {table : Byte → Option Entry} {s : State} {e : Entry} {r : Resolution}
    (he : table (s.readByte s.pc) = some e) (hr : resolve e.mode s.pc s = .ok r) :
    decodeRecord table s = .ok (mkRecord e r) := by
  simp only [decodeRecord, he, hr]

/-- The running state with the counter spent, on which an iteration steps, decodes what the state before it decodes. -/
@[simp] theorem decodeRecord_spend (table : Byte → Option Entry) (s : State) (e : EngineStatus) :
    decodeRecord table (s.setStatus e).spend = decodeRecord table s := rfl

/-- All an engine step can do when it answers next: the break halted, or the handler of the decoded identity succeeded
from the state with `last` written and PC advanced, and the cycles were charged (41_engine_step.md R160). -/
theorem engineStep_next {w : EngineInputs} {s t : State} (h : engineStep w s = .next t) :
    ∃ ins, decodeRecord w.optable s = .ok ins ∧
      (ins.op = .BRK ∧ t = (s.setLast (some ins)).setStatus .halted ∨
        ins.op ≠ .BRK ∧ ∃ hd u, w.handlers ins.op = some hd ∧
          hd ins ((s.setLast (some ins)).advance ins.len) = .ok u ∧ t = u.charge ins) := by
  have h : engineLines w s = .ok t := by
    unfold engineStep at h
    split at h
    · cases h
    · next hl => cases h; exact hl
  unfold engineLines at h
  split at h
  · cases h
  · next ins hd =>
    refine ⟨ins, hd, ?_⟩
    unfold executeRecord at h
    split at h
    · next hb => cases h; exact .inl ⟨hb, rfl⟩
    · next hb =>
      refine .inr ⟨hb, ?_⟩
      simp only at h
      split at h
      · cases h
      · next hn hh =>
        split at h
        · cases h
        · next u hu => cases h; exact ⟨hn, u, hh, hu, rfl⟩

/-- All an iteration can do (41_engine_step.md R183, R184, R186). -/
theorem loopIteration_cases (w : EngineInputs) (s : State) :
    (s.es = .halted ∧ loopIteration w s = .next s) ∨
    (s.es ≠ .halted ∧ s.pc = s.cfg.breakSentinel ∧ loopIteration w s = .next (s.setStatus .halted)) ∨
    (s.es ≠ .halted ∧ s.pc ≠ s.cfg.breakSentinel ∧ loopIteration w s = engineStep w (s.setStatus .running).spend) := by
  unfold loopIteration
  cases he : s.es with
  | halted => exact .inl ⟨rfl, rfl⟩
  | idle => by_cases hp : s.pc = s.cfg.breakSentinel <;> simp [hp]
  | running => by_cases hp : s.pc = s.cfg.breakSentinel <;> simp [hp]

end Sys2Proof.Machine
end

