-- ==== Sys2Proof/Laws/Flags.lean ====
section
/-! SUPPORT. What each flag operation does to each flag and that it does nothing else, so that no later proof unfolds one. -/

namespace Sys2Proof.Machine

/-- SetZN writes Z and N and nothing else (10_state.md R33). -/
theorem State.setZN_eq (s : State) (r : Byte) : s.setZN r = s.setFlags (s.flags.withZN r) := rfl

@[simp] theorem Flags.withZN_c (f : Flags) (r : Byte) : (f.withZN r).c = f.c := rfl
@[simp] theorem Flags.withZN_z (f : Flags) (r : Byte) : (f.withZN r).z = (r == 0) := rfl
@[simp] theorem Flags.withZN_i (f : Flags) (r : Byte) : (f.withZN r).i = f.i := rfl
@[simp] theorem Flags.withZN_d (f : Flags) (r : Byte) : (f.withZN r).d = f.d := rfl
@[simp] theorem Flags.withZN_v (f : Flags) (r : Byte) : (f.withZN r).v = f.v := rfl
@[simp] theorem Flags.withZN_n (f : Flags) (r : Byte) : (f.withZN r).n = r.getLsbD 7 := rfl

theorem State.setC_eq (s : State) (b : Bool) : s.setC b = s.setFlags { s.flags with c := b } := rfl
theorem State.setI_eq (s : State) (b : Bool) : s.setI b = s.setFlags { s.flags with i := b } := rfl
theorem State.setD_eq (s : State) (b : Bool) : s.setD b = s.setFlags { s.flags with d := b } := rfl
theorem State.setV_eq (s : State) (b : Bool) : s.setV b = s.setFlags { s.flags with v := b } := rfl

/-- ADC and SBC write A and the flags C, V, Z, N, and nothing else (43_ref_arith_logic.md R231). -/
theorem State.addToA_eq (s : State) (m : Byte) :
    s.addToA m = (s.setA (addWithCarry s.a m s.flags.c).result).setFlags
      { s.flags with
        c := (addWithCarry s.a m s.flags.c).carry
        v := (addWithCarry s.a m s.flags.c).overflow
        z := (addWithCarry s.a m s.flags.c).result == 0
        n := (addWithCarry s.a m s.flags.c).result.getLsbD 7 } := rfl

/-- The compares write C, Z and N, and nothing else (43_ref_arith_logic.md R239). -/
theorem State.compare_eq (s : State) (reg m : Byte) :
    s.compare reg m = s.setFlags
      { s.flags with c := decide (m ≤ reg), z := reg - m == 0, n := (reg - m).getLsbD 7 } := rfl

/-- BIT writes Z, N and V, and nothing else (43_ref_arith_logic.md R242). -/
theorem State.bitTest_eq (s : State) (m : Byte) :
    s.bitTest m = s.setFlags { s.flags with z := s.a &&& m == 0, n := m.getLsbD 7, v := m.getLsbD 6 } := rfl

end Sys2Proof.Machine
end

