-- ==== Sys2Proof/Laws/HandlerProgram.lean ====
section
/-! SUPPORT. What a program over a handler's primitives can do, said once: it leaves the engine's own state and the
configuration alone, keeps memory canonical, and sees of the state no more than its primitives return. -/

namespace Sys2Proof.Machine

/-- What a handler returned, success or failure: the state it leaves. -/
def handlerState : Except Failure State → State
  | .ok t => t
  | .error f => f.state

/-- What a handler leaves alone, and that memory stays canonical. -/
structure Untouched (s t : State) : Prop where
  es      : t.es = s.es
  pending : t.pending = s.pending
  last    : t.last = s.last
  cfg     : t.cfg = s.cfg
  mem     : s.mem.wf → t.mem.wf

theorem Untouched.refl (s : State) : Untouched s s := ⟨rfl, rfl, rfl, rfl, id⟩

theorem Untouched.trans {s t u : State} (h : Untouched s t) (k : Untouched t u) : Untouched s u :=
  ⟨k.es.trans h.es, k.pending.trans h.pending, k.last.trans h.last, k.cfg.trans h.cfg, fun hm => k.mem (h.mem hm)⟩

theorem untouched_setRegister (s : State) (r : Register) (v : Byte) : Untouched s (s.setRegister r v) := by
  cases r <;> exact ⟨rfl, rfl, rfl, rfl, id⟩

theorem untouched_writeByte (s : State) (a : Word) (v : Byte) : Untouched s (s.writeByte a v) :=
  ⟨rfl, rfl, rfl, rfl, fun h => State.writeByte_wf h _ _⟩

theorem untouched_operandWrite (ins : InstrRecord) (v : Byte) (s : State) : Untouched s (operandWrite ins v s) := by
  unfold operandWrite
  split
  · exact untouched_writeByte s _ v
  · exact ⟨rfl, rfl, rfl, rfl, id⟩

theorem untouched_writeWord {s t : State} {pos w : Word} (h : s.writeWord pos w = .ok t) : Untouched s t := by
  rw [State.writeWord_ok h]
  exact (untouched_writeByte _ _ _).trans (untouched_writeByte _ _ _)

theorem untouched_push (s : State) (v : Byte) : Untouched s (s.push v) :=
  ⟨rfl, rfl, rfl, rfl, fun h => State.push_wf h _⟩

/-- A program leaves the engine's own state and the configuration alone and keeps memory canonical, whether it succeeds or
fails (41_engine_step.md R178). -/
theorem HandlerProgram.run_untouched (p : HandlerProgram) (ins : InstrRecord) (s : State) :
    Untouched s (handlerState (p.run ins s)) := by
  induction p generalizing s with
  | done => exact .refl s
  | fail kind info => exact .refl s
  | get r rest ih => exact ih _ s
  | put r v rest ih => exact (untouched_setRegister s r v).trans (ih _)
  | getPC rest ih => exact ih _ s
  | putPC t rest ih => exact Untouched.trans (t := s.setPC t) ⟨rfl, rfl, rfl, rfl, id⟩ (ih _)
  | getFlags rest ih => exact ih _ s
  | putFlags f rest ih => exact Untouched.trans (t := s.setFlags f) ⟨rfl, rfl, rfl, rfl, id⟩ (ih _)
  | memRead addr rest ih => exact ih _ s
  | memWrite addr v rest ih => exact (untouched_writeByte s addr v).trans (ih _)
  | memRead16 pos rest ih =>
    simp only [run]
    cases s.readWord pos with
    | error f => exact .refl s
    | ok w => exact ih w s
  | memWrite16 pos w rest ih =>
    simp only [run]
    cases h : s.writeWord pos w with
    | error f => exact .refl s
    | ok t => exact (untouched_writeWord h).trans (ih t)
  | push v rest ih => exact (untouched_push s v).trans (ih _)
  | pop rest ih => exact Untouched.trans (t := s.pop.2) ⟨rfl, rfl, rfl, rfl, id⟩ (ih _ _)
  | push16 w rest ih => exact ((untouched_push s _).trans (untouched_push _ _)).trans (ih _)
  | pop16 rest ih => exact Untouched.trans (t := s.pop16.2) ⟨rfl, rfl, rfl, rfl, id⟩ (ih _ _)
  | readOperand rest ih => exact ih _ s
  | writeOperand v rest ih => exact (untouched_operandWrite ins v s).trans (ih _)

/-- Only a write of PC writes PC: a program with none leaves it where the engine advanced it (70_reset_and_hazards.md
R382). -/
theorem HandlerProgram.run_pc (p : HandlerProgram) (hp : p.KeepsPC) (ins : InstrRecord) (s : State) :
    (handlerState (p.run ins s)).pc = s.pc := by
  induction p generalizing s with
  | done => rfl
  | fail kind info => rfl
  | get r rest ih => exact ih _ (hp _) s
  | put r v rest ih => exact (ih hp _).trans (by cases r <;> rfl)
  | getPC rest ih => exact ih _ (hp _) s
  | putPC t rest ih => exact hp.elim
  | getFlags rest ih => exact ih _ (hp _) s
  | putFlags f rest ih => exact ih hp (s.setFlags f)
  | memRead addr rest ih => exact ih _ (hp _) s
  | memWrite addr v rest ih => exact ih hp (s.writeByte addr v)
  | memRead16 pos rest ih =>
    simp only [run]
    cases s.readWord pos with
    | error f => rfl
    | ok w => exact ih w (hp w) s
  | memWrite16 pos w rest ih =>
    simp only [run]
    cases h : s.writeWord pos w with
    | error f => rfl
    | ok t => exact (ih hp t).trans (by rw [State.writeWord_ok h]; rfl)
  | push v rest ih => exact ih hp (s.push v)
  | pop rest ih => exact ih _ (hp _) s.pop.2
  | push16 w rest ih => exact ih hp (s.push16 w)
  | pop16 rest ih => exact ih _ (hp _) s.pop16.2
  | readOperand rest ih => exact ih _ (hp _) s
  | writeOperand v rest ih =>
    refine (ih hp _).trans ?_
    unfold operandWrite
    split <;> rfl

/-- What a handler returned, with the state it leaves mapped. -/
def mapState (f : State → State) : Except Failure State → Except Failure State
  | .ok t => .ok (f t)
  | .error e => .error ⟨e.fault, f e.state⟩

/-- A program neither reads nor writes the pending counter. -/
theorem HandlerProgram.run_setPending (p : HandlerProgram) (ins : InstrRecord) (s : State) (n : Nat) :
    p.run ins (s.setPending n) = mapState (·.setPending n) (p.run ins s) := by
  induction p generalizing s with
  | done => rfl
  | fail kind info => rfl
  | get r rest ih => cases r <;> exact ih _ s
  | put r v rest ih =>
    have : (s.setPending n).setRegister r v = (s.setRegister r v).setPending n := by cases r <;> rfl
    simp only [run, this]
    exact ih _
  | getPC rest ih => exact ih _ s
  | putPC t rest ih => exact ih (s.setPC t)
  | getFlags rest ih => exact ih _ s
  | putFlags f rest ih => exact ih (s.setFlags f)
  | memRead addr rest ih => exact ih _ s
  | memWrite addr v rest ih => exact ih (s.writeByte addr v)
  | memRead16 pos rest ih =>
    simp only [run, show (s.setPending n).readWord pos = s.readWord pos from rfl]
    cases s.readWord pos with
    | error f => rfl
    | ok w => exact ih w s
  | memWrite16 pos w rest ih =>
    have : (s.setPending n).writeWord pos w = (s.writeWord pos w).map (·.setPending n) := by
      unfold State.writeWord
      by_cases h : wordFaults s.cfg pos = true
      · exact (if_pos h).trans (by rw [if_pos h]; rfl)
      · exact (if_neg h).trans (by rw [if_neg h]; rfl)
    simp only [run, this]
    cases s.writeWord pos w with
    | error f => rfl
    | ok t => exact ih t
  | push v rest ih => exact ih (s.push v)
  | pop rest ih => exact ih _ s.pop.2
  | push16 w rest ih => exact ih (s.push16 w)
  | pop16 rest ih => exact ih _ s.pop16.2
  | readOperand rest ih => exact ih _ s
  | writeOperand v rest ih =>
    have : operandWrite ins v (s.setPending n) = (operandWrite ins v s).setPending n := by
      unfold operandWrite
      split <;> rfl
    simp only [run, this]
    exact ih _

/-- What a handler can see of a state: the registers, the flags, memory as reads return it, and of the configuration the
stack base and the top-of-memory policy, through the primitives that use them (41_engine_step.md R178). -/
structure SameView (s t : State) : Prop where
  register  : ∀ r, t.register r = s.register r
  pc        : t.pc = s.pc
  flags     : t.flags = s.flags
  read      : ∀ a, t.readByte a = s.readByte a
  stackBase : t.cfg.stackBase = s.cfg.stackBase
  topWrap   : t.cfg.topWrap = s.cfg.topWrap

theorem SameView.refl (s : State) : SameView s s := ⟨fun _ => rfl, rfl, rfl, fun _ => rfl, rfl, rfl⟩

theorem SameView.setRegister {s t : State} (h : SameView s t) (r : Register) (v : Byte) :
    SameView (s.setRegister r v) (t.setRegister r v) := by
  have hr := h.register
  refine ⟨fun q => ?_, ?_, ?_, fun a => ?_, ?_, ?_⟩
  · cases r <;> cases q <;> first | rfl | exact hr .A | exact hr .X | exact hr .Y | exact hr .SP
  · cases r <;> exact h.pc
  · cases r <;> exact h.flags
  · cases r <;> exact h.read a
  · cases r <;> exact h.stackBase
  · cases r <;> exact h.topWrap

theorem SameView.writeByte {s t : State} (h : SameView s t) (a : Word) (v : Byte) :
    SameView (s.writeByte a v) (t.writeByte a v) := by
  refine ⟨fun r => ?_, h.pc, h.flags, fun b => ?_, h.stackBase, h.topWrap⟩
  · cases r <;> first | exact h.register .A | exact h.register .X | exact h.register .Y | exact h.register .SP
  · have hb := h.read b
    unfold State.readByte at *
    rw [State.cell_writeByte, State.cell_writeByte, hb]

theorem SameView.stackAddr {s t : State} (h : SameView s t) (v : Byte) : stackAddr t.cfg v = stackAddr s.cfg v := by
  unfold Sys2Proof.Machine.stackAddr
  rw [h.stackBase]

theorem SameView.sp {s t : State} (h : SameView s t) : t.sp = s.sp := h.register .SP

theorem SameView.push {s t : State} (h : SameView s t) (v : Byte) : SameView (s.push v) (t.push v) := by
  unfold State.push
  rw [h.stackAddr, h.sp]
  exact (h.writeByte _ _).setRegister .SP _

theorem SameView.pop {s t : State} (h : SameView s t) : t.pop.1 = s.pop.1 ∧ SameView s.pop.2 t.pop.2 := by
  unfold State.pop
  rw [h.stackAddr, h.sp]
  exact ⟨h.read _, h.setRegister .SP _⟩

theorem SameView.readWord {s t : State} (h : SameView s t) (pos : Word) : t.readWord pos = s.readWord pos := by
  unfold State.readWord State.wordAt wordFaults
  rw [h.read, h.read, h.topWrap]

theorem SameView.operandRead {s t : State} (h : SameView s t) (ins : InstrRecord) :
    operandRead ins t = operandRead ins s := by
  unfold Sys2Proof.Machine.operandRead
  split
  · exact h.read _
  · rw [show t.a = s.a from h.register .A]

theorem SameView.operandWrite {s t : State} (h : SameView s t) (ins : InstrRecord) (v : Byte) :
    SameView (operandWrite ins v s) (operandWrite ins v t) := by
  unfold Sys2Proof.Machine.operandWrite
  split
  · exact h.writeByte _ _
  · exact h.setRegister .A v

theorem SameView.setPC {s t : State} (h : SameView s t) (w : Word) : SameView (s.setPC w) (t.setPC w) :=
  ⟨fun r => by cases r <;> first | exact h.register .A | exact h.register .X | exact h.register .Y | exact h.register .SP,
    rfl, h.flags, h.read, h.stackBase, h.topWrap⟩

theorem SameView.setFlags {s t : State} (h : SameView s t) (f : Flags) : SameView (s.setFlags f) (t.setFlags f) :=
  ⟨fun r => by cases r <;> first | exact h.register .A | exact h.register .X | exact h.register .Y | exact h.register .SP,
    h.pc, rfl, h.read, h.stackBase, h.topWrap⟩

/-- Two results a handler cannot tell apart: the same outcome, and states of the same view. -/
def SameResult : Except Failure State → Except Failure State → Prop
  | .ok s, .ok t => SameView s t
  | .error f, .error g => g.fault = f.fault ∧ SameView f.state g.state
  | _, _ => False

/-- A program sees no more of a state than its primitives return: from states of the same view it does the same
(41_engine_step.md R178). -/
theorem HandlerProgram.run_sameView (p : HandlerProgram) (ins : InstrRecord) {s t : State} (h : SameView s t) :
    SameResult (p.run ins s) (p.run ins t) := by
  induction p generalizing s t with
  | done => exact h
  | fail kind info => exact ⟨rfl, h⟩
  | get r rest ih => simpa only [run, h.register r] using ih _ h
  | put r v rest ih => exact ih (h.setRegister r v)
  | getPC rest ih => simpa only [run, h.pc] using ih _ h
  | putPC w rest ih => exact ih (h.setPC w)
  | getFlags rest ih => simpa only [run, h.flags] using ih _ h
  | putFlags f rest ih => exact ih (h.setFlags f)
  | memRead addr rest ih => simpa only [run, h.read addr] using ih _ h
  | memWrite addr v rest ih => exact ih (h.writeByte addr v)
  | memRead16 pos rest ih =>
    simp only [run, h.readWord pos]
    cases s.readWord pos with
    | error f => exact ⟨rfl, h⟩
    | ok w => exact ih w h
  | memWrite16 pos w rest ih =>
    have hw : wordFaults t.cfg pos = wordFaults s.cfg pos := by unfold wordFaults; rw [h.topWrap]
    simp only [run, State.writeWord, hw]
    cases wordFaults s.cfg pos with
    | true => exact ⟨rfl, h⟩
    | false => exact ih ((h.writeByte _ _).writeByte _ _)
  | push v rest ih => exact ih (h.push v)
  | pop rest ih => simpa only [run, h.pop.1] using ih _ h.pop.2
  | push16 w rest ih => exact ih ((h.push _).push _)
  | pop16 rest ih =>
    have h1 := h.pop
    have h2 := h1.2.pop
    simp only [run, State.pop16, h1.1, h2.1]
    exact ih _ h2.2
  | readOperand rest ih => simpa only [run, h.operandRead ins] using ih _ h
  | writeOperand v rest ih => exact ih (h.operandWrite ins v)

/-- A handler in its reach leaves the engine's own state and the configuration alone and keeps memory canonical. -/
theorem Handler.InReach.untouched {h : Handler} (hr : h.InReach) (ins : InstrRecord) (s : State) :
    Untouched s (handlerState (h ins s)) := by
  obtain ⟨p, hp⟩ := hr
  rw [hp]
  exact (p ins).run_untouched ins s

/-- A handler in its reach sees no more of a state than its primitives return. -/
theorem Handler.InReach.sameView {h : Handler} (hr : h.InReach) (ins : InstrRecord) {s t : State} (hv : SameView s t) :
    SameResult (h ins s) (h ins t) := by
  obtain ⟨p, hp⟩ := hr
  rw [hp, hp]
  exact (p ins).run_sameView ins hv

end Sys2Proof.Machine
end

