-- ==== Sys2Proof/Laws/PerInstr.lean ====
section
/-! SUPPORT. Facts about every instruction as syntax, one lemma per constructor: the encoding of an instruction is its
opcode byte followed by operand bytes, in all the length its addressing mode has (30_encoding.md R100, R109). -/

namespace Sys2Proof.Laws.EncodedLength

/-- The encoding starts with the opcode byte and is as long as the mode says. -/
def Statement (i : Instr) : Prop := (encode i).head? = some i.opcode ∧ (encode i).length = i.len

theorem adcImm (imm : Byte) : Statement (.adcImm imm) := ⟨rfl, rfl⟩
theorem adcZp (zp : Byte) : Statement (.adcZp zp) := ⟨rfl, rfl⟩
theorem adcZpx (zp : Byte) : Statement (.adcZpx zp) := ⟨rfl, rfl⟩
theorem adcAbs (addr : Word) : Statement (.adcAbs addr) := ⟨rfl, rfl⟩
theorem adcAbx (addr : Word) : Statement (.adcAbx addr) := ⟨rfl, rfl⟩
theorem adcAby (addr : Word) : Statement (.adcAby addr) := ⟨rfl, rfl⟩
theorem adcIzx (zp : Byte) : Statement (.adcIzx zp) := ⟨rfl, rfl⟩
theorem adcIzy (zp : Byte) : Statement (.adcIzy zp) := ⟨rfl, rfl⟩
theorem andImm (imm : Byte) : Statement (.andImm imm) := ⟨rfl, rfl⟩
theorem andZp (zp : Byte) : Statement (.andZp zp) := ⟨rfl, rfl⟩
theorem andZpx (zp : Byte) : Statement (.andZpx zp) := ⟨rfl, rfl⟩
theorem andAbs (addr : Word) : Statement (.andAbs addr) := ⟨rfl, rfl⟩
theorem andAbx (addr : Word) : Statement (.andAbx addr) := ⟨rfl, rfl⟩
theorem andAby (addr : Word) : Statement (.andAby addr) := ⟨rfl, rfl⟩
theorem andIzx (zp : Byte) : Statement (.andIzx zp) := ⟨rfl, rfl⟩
theorem andIzy (zp : Byte) : Statement (.andIzy zp) := ⟨rfl, rfl⟩
theorem aslAcc : Statement .aslAcc := ⟨rfl, rfl⟩
theorem aslZp (zp : Byte) : Statement (.aslZp zp) := ⟨rfl, rfl⟩
theorem aslZpx (zp : Byte) : Statement (.aslZpx zp) := ⟨rfl, rfl⟩
theorem aslAbs (addr : Word) : Statement (.aslAbs addr) := ⟨rfl, rfl⟩
theorem aslAbx (addr : Word) : Statement (.aslAbx addr) := ⟨rfl, rfl⟩
theorem bcc (disp : Byte) : Statement (.bcc disp) := ⟨rfl, rfl⟩
theorem bcs (disp : Byte) : Statement (.bcs disp) := ⟨rfl, rfl⟩
theorem beq (disp : Byte) : Statement (.beq disp) := ⟨rfl, rfl⟩
theorem bitZp (zp : Byte) : Statement (.bitZp zp) := ⟨rfl, rfl⟩
theorem bitAbs (addr : Word) : Statement (.bitAbs addr) := ⟨rfl, rfl⟩
theorem bmi (disp : Byte) : Statement (.bmi disp) := ⟨rfl, rfl⟩
theorem bne (disp : Byte) : Statement (.bne disp) := ⟨rfl, rfl⟩
theorem bpl (disp : Byte) : Statement (.bpl disp) := ⟨rfl, rfl⟩
theorem brk : Statement .brk := ⟨rfl, rfl⟩
theorem bvc (disp : Byte) : Statement (.bvc disp) := ⟨rfl, rfl⟩
theorem bvs (disp : Byte) : Statement (.bvs disp) := ⟨rfl, rfl⟩
theorem clc : Statement .clc := ⟨rfl, rfl⟩
theorem cld : Statement .cld := ⟨rfl, rfl⟩
theorem cli : Statement .cli := ⟨rfl, rfl⟩
theorem clv : Statement .clv := ⟨rfl, rfl⟩
theorem cmpImm (imm : Byte) : Statement (.cmpImm imm) := ⟨rfl, rfl⟩
theorem cmpZp (zp : Byte) : Statement (.cmpZp zp) := ⟨rfl, rfl⟩
theorem cmpZpx (zp : Byte) : Statement (.cmpZpx zp) := ⟨rfl, rfl⟩
theorem cmpAbs (addr : Word) : Statement (.cmpAbs addr) := ⟨rfl, rfl⟩
theorem cmpAbx (addr : Word) : Statement (.cmpAbx addr) := ⟨rfl, rfl⟩
theorem cmpAby (addr : Word) : Statement (.cmpAby addr) := ⟨rfl, rfl⟩
theorem cmpIzx (zp : Byte) : Statement (.cmpIzx zp) := ⟨rfl, rfl⟩
theorem cmpIzy (zp : Byte) : Statement (.cmpIzy zp) := ⟨rfl, rfl⟩
theorem cpxImm (imm : Byte) : Statement (.cpxImm imm) := ⟨rfl, rfl⟩
theorem cpxZp (zp : Byte) : Statement (.cpxZp zp) := ⟨rfl, rfl⟩
theorem cpxAbs (addr : Word) : Statement (.cpxAbs addr) := ⟨rfl, rfl⟩
theorem cpyImm (imm : Byte) : Statement (.cpyImm imm) := ⟨rfl, rfl⟩
theorem cpyZp (zp : Byte) : Statement (.cpyZp zp) := ⟨rfl, rfl⟩
theorem cpyAbs (addr : Word) : Statement (.cpyAbs addr) := ⟨rfl, rfl⟩
theorem decZp (zp : Byte) : Statement (.decZp zp) := ⟨rfl, rfl⟩
theorem decZpx (zp : Byte) : Statement (.decZpx zp) := ⟨rfl, rfl⟩
theorem decAbs (addr : Word) : Statement (.decAbs addr) := ⟨rfl, rfl⟩
theorem decAbx (addr : Word) : Statement (.decAbx addr) := ⟨rfl, rfl⟩
theorem dex : Statement .dex := ⟨rfl, rfl⟩
theorem dey : Statement .dey := ⟨rfl, rfl⟩
theorem eorImm (imm : Byte) : Statement (.eorImm imm) := ⟨rfl, rfl⟩
theorem eorZp (zp : Byte) : Statement (.eorZp zp) := ⟨rfl, rfl⟩
theorem eorZpx (zp : Byte) : Statement (.eorZpx zp) := ⟨rfl, rfl⟩
theorem eorAbs (addr : Word) : Statement (.eorAbs addr) := ⟨rfl, rfl⟩
theorem eorAbx (addr : Word) : Statement (.eorAbx addr) := ⟨rfl, rfl⟩
theorem eorAby (addr : Word) : Statement (.eorAby addr) := ⟨rfl, rfl⟩
theorem eorIzx (zp : Byte) : Statement (.eorIzx zp) := ⟨rfl, rfl⟩
theorem eorIzy (zp : Byte) : Statement (.eorIzy zp) := ⟨rfl, rfl⟩
theorem incZp (zp : Byte) : Statement (.incZp zp) := ⟨rfl, rfl⟩
theorem incZpx (zp : Byte) : Statement (.incZpx zp) := ⟨rfl, rfl⟩
theorem incAbs (addr : Word) : Statement (.incAbs addr) := ⟨rfl, rfl⟩
theorem incAbx (addr : Word) : Statement (.incAbx addr) := ⟨rfl, rfl⟩
theorem inx : Statement .inx := ⟨rfl, rfl⟩
theorem iny : Statement .iny := ⟨rfl, rfl⟩
theorem jmpAbs (addr : Word) : Statement (.jmpAbs addr) := ⟨rfl, rfl⟩
theorem jmpInd (ptr : Word) : Statement (.jmpInd ptr) := ⟨rfl, rfl⟩
theorem jsr (addr : Word) : Statement (.jsr addr) := ⟨rfl, rfl⟩
theorem ldaImm (imm : Byte) : Statement (.ldaImm imm) := ⟨rfl, rfl⟩
theorem ldaZp (zp : Byte) : Statement (.ldaZp zp) := ⟨rfl, rfl⟩
theorem ldaZpx (zp : Byte) : Statement (.ldaZpx zp) := ⟨rfl, rfl⟩
theorem ldaAbs (addr : Word) : Statement (.ldaAbs addr) := ⟨rfl, rfl⟩
theorem ldaAbx (addr : Word) : Statement (.ldaAbx addr) := ⟨rfl, rfl⟩
theorem ldaAby (addr : Word) : Statement (.ldaAby addr) := ⟨rfl, rfl⟩
theorem ldaIzx (zp : Byte) : Statement (.ldaIzx zp) := ⟨rfl, rfl⟩
theorem ldaIzy (zp : Byte) : Statement (.ldaIzy zp) := ⟨rfl, rfl⟩
theorem ldxImm (imm : Byte) : Statement (.ldxImm imm) := ⟨rfl, rfl⟩
theorem ldxZp (zp : Byte) : Statement (.ldxZp zp) := ⟨rfl, rfl⟩
theorem ldxZpy (zp : Byte) : Statement (.ldxZpy zp) := ⟨rfl, rfl⟩
theorem ldxAbs (addr : Word) : Statement (.ldxAbs addr) := ⟨rfl, rfl⟩
theorem ldxAby (addr : Word) : Statement (.ldxAby addr) := ⟨rfl, rfl⟩
theorem ldyImm (imm : Byte) : Statement (.ldyImm imm) := ⟨rfl, rfl⟩
theorem ldyZp (zp : Byte) : Statement (.ldyZp zp) := ⟨rfl, rfl⟩
theorem ldyZpx (zp : Byte) : Statement (.ldyZpx zp) := ⟨rfl, rfl⟩
theorem ldyAbs (addr : Word) : Statement (.ldyAbs addr) := ⟨rfl, rfl⟩
theorem ldyAbx (addr : Word) : Statement (.ldyAbx addr) := ⟨rfl, rfl⟩
theorem lsrAcc : Statement .lsrAcc := ⟨rfl, rfl⟩
theorem lsrZp (zp : Byte) : Statement (.lsrZp zp) := ⟨rfl, rfl⟩
theorem lsrZpx (zp : Byte) : Statement (.lsrZpx zp) := ⟨rfl, rfl⟩
theorem lsrAbs (addr : Word) : Statement (.lsrAbs addr) := ⟨rfl, rfl⟩
theorem lsrAbx (addr : Word) : Statement (.lsrAbx addr) := ⟨rfl, rfl⟩
theorem nop : Statement .nop := ⟨rfl, rfl⟩
theorem oraImm (imm : Byte) : Statement (.oraImm imm) := ⟨rfl, rfl⟩
theorem oraZp (zp : Byte) : Statement (.oraZp zp) := ⟨rfl, rfl⟩
theorem oraZpx (zp : Byte) : Statement (.oraZpx zp) := ⟨rfl, rfl⟩
theorem oraAbs (addr : Word) : Statement (.oraAbs addr) := ⟨rfl, rfl⟩
theorem oraAbx (addr : Word) : Statement (.oraAbx addr) := ⟨rfl, rfl⟩
theorem oraAby (addr : Word) : Statement (.oraAby addr) := ⟨rfl, rfl⟩
theorem oraIzx (zp : Byte) : Statement (.oraIzx zp) := ⟨rfl, rfl⟩
theorem oraIzy (zp : Byte) : Statement (.oraIzy zp) := ⟨rfl, rfl⟩
theorem pha : Statement .pha := ⟨rfl, rfl⟩
theorem php : Statement .php := ⟨rfl, rfl⟩
theorem pla : Statement .pla := ⟨rfl, rfl⟩
theorem plp : Statement .plp := ⟨rfl, rfl⟩
theorem rolAcc : Statement .rolAcc := ⟨rfl, rfl⟩
theorem rolZp (zp : Byte) : Statement (.rolZp zp) := ⟨rfl, rfl⟩
theorem rolZpx (zp : Byte) : Statement (.rolZpx zp) := ⟨rfl, rfl⟩
theorem rolAbs (addr : Word) : Statement (.rolAbs addr) := ⟨rfl, rfl⟩
theorem rolAbx (addr : Word) : Statement (.rolAbx addr) := ⟨rfl, rfl⟩
theorem rorAcc : Statement .rorAcc := ⟨rfl, rfl⟩
theorem rorZp (zp : Byte) : Statement (.rorZp zp) := ⟨rfl, rfl⟩
theorem rorZpx (zp : Byte) : Statement (.rorZpx zp) := ⟨rfl, rfl⟩
theorem rorAbs (addr : Word) : Statement (.rorAbs addr) := ⟨rfl, rfl⟩
theorem rorAbx (addr : Word) : Statement (.rorAbx addr) := ⟨rfl, rfl⟩
theorem rti : Statement .rti := ⟨rfl, rfl⟩
theorem rts : Statement .rts := ⟨rfl, rfl⟩
theorem sbcImm (imm : Byte) : Statement (.sbcImm imm) := ⟨rfl, rfl⟩
theorem sbcZp (zp : Byte) : Statement (.sbcZp zp) := ⟨rfl, rfl⟩
theorem sbcZpx (zp : Byte) : Statement (.sbcZpx zp) := ⟨rfl, rfl⟩
theorem sbcAbs (addr : Word) : Statement (.sbcAbs addr) := ⟨rfl, rfl⟩
theorem sbcAbx (addr : Word) : Statement (.sbcAbx addr) := ⟨rfl, rfl⟩
theorem sbcAby (addr : Word) : Statement (.sbcAby addr) := ⟨rfl, rfl⟩
theorem sbcIzx (zp : Byte) : Statement (.sbcIzx zp) := ⟨rfl, rfl⟩
theorem sbcIzy (zp : Byte) : Statement (.sbcIzy zp) := ⟨rfl, rfl⟩
theorem sec : Statement .sec := ⟨rfl, rfl⟩
theorem sed : Statement .sed := ⟨rfl, rfl⟩
theorem sei : Statement .sei := ⟨rfl, rfl⟩
theorem staZp (zp : Byte) : Statement (.staZp zp) := ⟨rfl, rfl⟩
theorem staZpx (zp : Byte) : Statement (.staZpx zp) := ⟨rfl, rfl⟩
theorem staAbs (addr : Word) : Statement (.staAbs addr) := ⟨rfl, rfl⟩
theorem staAbx (addr : Word) : Statement (.staAbx addr) := ⟨rfl, rfl⟩
theorem staAby (addr : Word) : Statement (.staAby addr) := ⟨rfl, rfl⟩
theorem staIzx (zp : Byte) : Statement (.staIzx zp) := ⟨rfl, rfl⟩
theorem staIzy (zp : Byte) : Statement (.staIzy zp) := ⟨rfl, rfl⟩
theorem stxZp (zp : Byte) : Statement (.stxZp zp) := ⟨rfl, rfl⟩
theorem stxZpy (zp : Byte) : Statement (.stxZpy zp) := ⟨rfl, rfl⟩
theorem stxAbs (addr : Word) : Statement (.stxAbs addr) := ⟨rfl, rfl⟩
theorem styZp (zp : Byte) : Statement (.styZp zp) := ⟨rfl, rfl⟩
theorem styZpx (zp : Byte) : Statement (.styZpx zp) := ⟨rfl, rfl⟩
theorem styAbs (addr : Word) : Statement (.styAbs addr) := ⟨rfl, rfl⟩
theorem tax : Statement .tax := ⟨rfl, rfl⟩
theorem tay : Statement .tay := ⟨rfl, rfl⟩
theorem tsx : Statement .tsx := ⟨rfl, rfl⟩
theorem txa : Statement .txa := ⟨rfl, rfl⟩
theorem txs : Statement .txs := ⟨rfl, rfl⟩
theorem tya : Statement .tya := ⟨rfl, rfl⟩

end Sys2Proof.Laws.EncodedLength
end

