-- ==== Sys2Proof/Tests/Slice0.lean ====
section
/-! SUPPORT. Tests. The expected results come from the spec: the encodings from 30_encoding.md R112, the one-step vectors from
95_test_vectors.md (F0 for every opcode byte, F1 to F4 for corners, M, K, A, E, L for the rest). Then, for each obligation
with hypotheses, a state and operands that meet them. -/

namespace Sys2Proof.Tests

open Sys2Proof.Machine

/-! ## Ill-formed terms, one for each check -/

theorem test_entry_wellFormed : Entry.wellFormed ⟨.LDA, .ABX, 4, true⟩ = true := by decide
/-- A base cycle count of 0 (00_scope.md R7 (e)). -/
theorem test_entry_cycles_refused : Entry.wellFormed ⟨.LDA, .ABX, 0, true⟩ = false := by decide
/-- An extra cycle declared where no index can cross a page (30_encoding.md R112). -/
theorem test_entry_extra_cycle_refused : Entry.wellFormed ⟨.LDA, .ZPX, 4, true⟩ = false := by decide

theorem test_record_wellFormed : InstrRecord.wellFormed ⟨.LDA, .ABX, 4, true, .addr 0x3102, 0x30FE, 3, true⟩ = true := by decide
/-- A base cycle count of 0 (10_state.md R40). -/
theorem test_record_cycles_refused :
    InstrRecord.wellFormed ⟨.LDA, .ABX, 0, true, .addr 0x3102, 0x30FE, 3, true⟩ = false := by decide
/-- A length that is not the mode's (30_encoding.md R109). -/
theorem test_record_length_refused :
    InstrRecord.wellFormed ⟨.LDA, .ABX, 4, true, .addr 0x3102, 0x30FE, 2, true⟩ = false := by decide
/-- No address in a mode that has one (40_addressing_modes.md R139). -/
theorem test_record_missing_address_refused :
    InstrRecord.wellFormed ⟨.LDA, .ABX, 4, true, .none, 0x30FE, 3, true⟩ = false := by decide
/-- An address in a mode that has none (40_addressing_modes.md R134). -/
theorem test_record_address_refused :
    InstrRecord.wellFormed ⟨.LDA, .IMM, 2, false, .addr 0x007F, 0x007F, 2, false⟩ = false := by decide
/-- An argument where no operand byte exists (40_addressing_modes.md R131). -/
theorem test_record_argument_refused :
    InstrRecord.wellFormed ⟨.TAX, .IMP, 2, false, .none, 0x0001, 1, false⟩ = false := by decide
/-- An argument wider than one operand byte (40_addressing_modes.md R131). -/
theorem test_record_wide_argument_refused :
    InstrRecord.wellFormed ⟨.LDA, .IMM, 2, false, .none, 0x0100, 2, false⟩ = false := by decide
/-- A crossing in a mode without a 16-bit index (40_addressing_modes.md R145). -/
theorem test_record_crossing_refused :
    InstrRecord.wellFormed ⟨.LDA, .ABS, 4, false, .addr 0x3000, 0x3000, 3, true⟩ = false := by decide

theorem test_config_admissible : Config.admissible Config.ref = true := by decide
/-- A stack base with a low byte (00_scope.md R7 (a)). -/
theorem test_config_low_byte_refused : Config.admissible { Config.ref with stackBase := 0x0101 } = false := by decide
/-- A stack page in the unreadable range (R7 (b); vector K5). -/
theorem test_config_stack_page_refused : Config.admissible { Config.ref with stackBase := 0x0900 } = false := by decide
/-- A reset vector in the unreadable range (R7; vector L2). -/
theorem test_config_reset_vector_refused : Config.admissible { Config.ref with resetVector := 0x0FFC } = false := by decide
/-- A reset vector whose high byte is in the unreadable range (R7). -/
theorem test_config_reset_vector_high_refused : Config.admissible { Config.ref with resetVector := 0x07FF } = false := by decide
/-- A reset vector at 0xFFFF with TOP_WRAP decided (R7 (c); log 35). -/
theorem test_config_reset_vector_top :
    Config.admissible { Config.ref with resetVector := 0xFFFF, topWrap := .fault } = true := by decide
/-- R7 (d): REFCFG admits programs of at most 0x7FFC bytes; the next byte would be a reset-vector cell. -/
theorem test_program_length :
    Config.ref.admitsProgram 0x7FFC = true ∧ Config.ref.admitsProgram 0x7FFD = false := by decide
/-- A program with a byte in [0x0800, 0x2000) (R7 (b)), from below, inside, and the first address past it. -/
theorem test_program_unreadable_refused :
    let base (b : Word) : Config := { Config.ref with prgBase := b }
    (base 0x0700).admitsProgram 0x100 = true ∧ (base 0x0700).admitsProgram 0x101 = false ∧
      (base 0x1FFF).admitsProgram 1 = false ∧ (base 0x2000).admitsProgram 1 = true := by decide
/-- A program that does not fit (R7 (d)), the vectors being elsewhere. -/
theorem test_program_overflow_refused :
    let c : Config := { Config.ref with resetVector := 0x3000 }
    c.admitsProgram 0x8000 = true ∧ c.admitsProgram 0x8001 = false := by decide

/-! ## Decoding: every row's word, written from 30_encoding.md R112, operand bytes in memory order -/

/-- Every listed byte sequence decodes to the instruction beside it and leaves the byte 0xEA after it. -/
def decodes (rows : List (List Byte × Instr)) : Bool :=
  rows.all fun r =>
    match decode (r.1 ++ [0xEA]) with
    | .ok (i, rest) => i == r.2 && rest == [0xEA]
    | .error _ => false

theorem test_decode_loads :
    (decodes [([0xA1, 0x9C], .ldaIzx 0x9C), ([0xA5, 0x9C], .ldaZp 0x9C), ([0xA9, 0x9C], .ldaImm 0x9C),
        ([0xAD, 0x34, 0x12], .ldaAbs 0x1234), ([0xB1, 0x9C], .ldaIzy 0x9C), ([0xB5, 0x9C], .ldaZpx 0x9C),
        ([0xB9, 0x34, 0x12], .ldaAby 0x1234), ([0xBD, 0x34, 0x12], .ldaAbx 0x1234), ([0xA2, 0x9C], .ldxImm 0x9C),
        ([0xA6, 0x9C], .ldxZp 0x9C), ([0xAE, 0x34, 0x12], .ldxAbs 0x1234), ([0xB6, 0x9C], .ldxZpy 0x9C)] &&
      decodes [([0xBE, 0x34, 0x12], .ldxAby 0x1234), ([0xA0, 0x9C], .ldyImm 0x9C), ([0xA4, 0x9C], .ldyZp 0x9C),
        ([0xAC, 0x34, 0x12], .ldyAbs 0x1234), ([0xB4, 0x9C], .ldyZpx 0x9C), ([0xBC, 0x34, 0x12], .ldyAbx 0x1234)]) = true := by
  decide

theorem test_decode_stores :
    (decodes [([0x81, 0x9C], .staIzx 0x9C), ([0x85, 0x9C], .staZp 0x9C), ([0x8D, 0x34, 0x12], .staAbs 0x1234),
        ([0x91, 0x9C], .staIzy 0x9C), ([0x95, 0x9C], .staZpx 0x9C), ([0x99, 0x34, 0x12], .staAby 0x1234),
        ([0x9D, 0x34, 0x12], .staAbx 0x1234), ([0x86, 0x9C], .stxZp 0x9C), ([0x8E, 0x34, 0x12], .stxAbs 0x1234),
        ([0x96, 0x9C], .stxZpy 0x9C), ([0x84, 0x9C], .styZp 0x9C), ([0x8C, 0x34, 0x12], .styAbs 0x1234)] &&
      decodes [([0x94, 0x9C], .styZpx 0x9C)]) = true := by
  decide

theorem test_decode_transfers :
    (decodes [([0xAA], .tax), ([0xA8], .tay), ([0x8A], .txa),
        ([0x98], .tya), ([0xBA], .tsx), ([0x9A], .txs)]) = true := by
  decide

theorem test_decode_add_subtract :
    (decodes [([0x61, 0x9C], .adcIzx 0x9C), ([0x65, 0x9C], .adcZp 0x9C), ([0x69, 0x9C], .adcImm 0x9C),
        ([0x6D, 0x34, 0x12], .adcAbs 0x1234), ([0x71, 0x9C], .adcIzy 0x9C), ([0x75, 0x9C], .adcZpx 0x9C),
        ([0x79, 0x34, 0x12], .adcAby 0x1234), ([0x7D, 0x34, 0x12], .adcAbx 0x1234), ([0xE1, 0x9C], .sbcIzx 0x9C),
        ([0xE5, 0x9C], .sbcZp 0x9C), ([0xE9, 0x9C], .sbcImm 0x9C), ([0xED, 0x34, 0x12], .sbcAbs 0x1234)] &&
      decodes [([0xF1, 0x9C], .sbcIzy 0x9C), ([0xF5, 0x9C], .sbcZpx 0x9C), ([0xF9, 0x34, 0x12], .sbcAby 0x1234),
        ([0xFD, 0x34, 0x12], .sbcAbx 0x1234)]) = true := by
  decide

theorem test_decode_logic :
    (decodes [([0x21, 0x9C], .andIzx 0x9C), ([0x25, 0x9C], .andZp 0x9C), ([0x29, 0x9C], .andImm 0x9C),
        ([0x2D, 0x34, 0x12], .andAbs 0x1234), ([0x31, 0x9C], .andIzy 0x9C), ([0x35, 0x9C], .andZpx 0x9C),
        ([0x39, 0x34, 0x12], .andAby 0x1234), ([0x3D, 0x34, 0x12], .andAbx 0x1234), ([0x01, 0x9C], .oraIzx 0x9C),
        ([0x05, 0x9C], .oraZp 0x9C), ([0x09, 0x9C], .oraImm 0x9C), ([0x0D, 0x34, 0x12], .oraAbs 0x1234)] &&
      decodes [([0x11, 0x9C], .oraIzy 0x9C), ([0x15, 0x9C], .oraZpx 0x9C), ([0x19, 0x34, 0x12], .oraAby 0x1234),
        ([0x1D, 0x34, 0x12], .oraAbx 0x1234), ([0x41, 0x9C], .eorIzx 0x9C), ([0x45, 0x9C], .eorZp 0x9C),
        ([0x49, 0x9C], .eorImm 0x9C), ([0x4D, 0x34, 0x12], .eorAbs 0x1234), ([0x51, 0x9C], .eorIzy 0x9C),
        ([0x55, 0x9C], .eorZpx 0x9C), ([0x59, 0x34, 0x12], .eorAby 0x1234), ([0x5D, 0x34, 0x12], .eorAbx 0x1234)]) = true := by
  decide

theorem test_decode_compares :
    (decodes [([0xC1, 0x9C], .cmpIzx 0x9C), ([0xC5, 0x9C], .cmpZp 0x9C), ([0xC9, 0x9C], .cmpImm 0x9C),
        ([0xCD, 0x34, 0x12], .cmpAbs 0x1234), ([0xD1, 0x9C], .cmpIzy 0x9C), ([0xD5, 0x9C], .cmpZpx 0x9C),
        ([0xD9, 0x34, 0x12], .cmpAby 0x1234), ([0xDD, 0x34, 0x12], .cmpAbx 0x1234), ([0xE0, 0x9C], .cpxImm 0x9C),
        ([0xE4, 0x9C], .cpxZp 0x9C), ([0xEC, 0x34, 0x12], .cpxAbs 0x1234), ([0xC0, 0x9C], .cpyImm 0x9C)] &&
      decodes [([0xC4, 0x9C], .cpyZp 0x9C), ([0xCC, 0x34, 0x12], .cpyAbs 0x1234), ([0x24, 0x9C], .bitZp 0x9C),
        ([0x2C, 0x34, 0x12], .bitAbs 0x1234)]) = true := by
  decide

theorem test_decode_increments :
    (decodes [([0xE6, 0x9C], .incZp 0x9C), ([0xEE, 0x34, 0x12], .incAbs 0x1234), ([0xF6, 0x9C], .incZpx 0x9C),
        ([0xFE, 0x34, 0x12], .incAbx 0x1234), ([0xC6, 0x9C], .decZp 0x9C), ([0xCE, 0x34, 0x12], .decAbs 0x1234),
        ([0xD6, 0x9C], .decZpx 0x9C), ([0xDE, 0x34, 0x12], .decAbx 0x1234), ([0xE8], .inx),
        ([0xC8], .iny), ([0xCA], .dex), ([0x88], .dey)]) = true := by
  decide

theorem test_decode_shifts :
    (decodes [([0x06, 0x9C], .aslZp 0x9C), ([0x0A], .aslAcc), ([0x0E, 0x34, 0x12], .aslAbs 0x1234),
        ([0x16, 0x9C], .aslZpx 0x9C), ([0x1E, 0x34, 0x12], .aslAbx 0x1234), ([0x46, 0x9C], .lsrZp 0x9C),
        ([0x4A], .lsrAcc), ([0x4E, 0x34, 0x12], .lsrAbs 0x1234), ([0x56, 0x9C], .lsrZpx 0x9C),
        ([0x5E, 0x34, 0x12], .lsrAbx 0x1234), ([0x26, 0x9C], .rolZp 0x9C), ([0x2A], .rolAcc)] &&
      decodes [([0x2E, 0x34, 0x12], .rolAbs 0x1234), ([0x36, 0x9C], .rolZpx 0x9C), ([0x3E, 0x34, 0x12], .rolAbx 0x1234),
        ([0x66, 0x9C], .rorZp 0x9C), ([0x6A], .rorAcc), ([0x6E, 0x34, 0x12], .rorAbs 0x1234),
        ([0x76, 0x9C], .rorZpx 0x9C), ([0x7E, 0x34, 0x12], .rorAbx 0x1234)]) = true := by
  decide

theorem test_decode_jumps :
    (decodes [([0x4C, 0x34, 0x12], .jmpAbs 0x1234), ([0x6C, 0x34, 0x12], .jmpInd 0x1234), ([0x20, 0x34, 0x12], .jsr 0x1234),
        ([0x60], .rts), ([0x40], .rti), ([0xEA], .nop),
        ([0x00], .brk)]) = true := by
  decide

theorem test_decode_branches :
    (decodes [([0x90, 0x9C], .bcc 0x9C), ([0xB0, 0x9C], .bcs 0x9C), ([0xF0, 0x9C], .beq 0x9C),
        ([0xD0, 0x9C], .bne 0x9C), ([0x30, 0x9C], .bmi 0x9C), ([0x10, 0x9C], .bpl 0x9C),
        ([0x50, 0x9C], .bvc 0x9C), ([0x70, 0x9C], .bvs 0x9C)]) = true := by
  decide

theorem test_decode_stack_flags :
    (decodes [([0x48], .pha), ([0x08], .php), ([0x68], .pla),
        ([0x28], .plp), ([0x18], .clc), ([0x38], .sec),
        ([0x58], .cli), ([0x78], .sei), ([0xD8], .cld),
        ([0xF8], .sed), ([0xB8], .clv)]) = true := by
  decide

/-- A byte with no row is rejected by name (30_encoding.md R113), and operand bytes that are missing are. -/
theorem test_decode_rejects :
    decode [0x02, 0x00, 0x00] = .error (.illegalOpcode 0x02) ∧ decode [0xFF] = .error (.illegalOpcode 0xFF) ∧
      decode [0xA9] = .error (.missingOperand 0xA9) ∧ decode [0xAD, 0x00] = .error (.missingOperand 0xAD) ∧
      decode [] = .error .noBytes :=
  ⟨rfl, rfl, rfl, rfl, rfl⟩

/-- The table's numbering: the second byte of an instruction is bits 15..8 of its word; what lies above `nbits` is 0. -/
theorem test_decodeTableWord :
    decodeTableWord 24 0x30FE9D = some (.staAbx 0x30FE) ∧ decodeTableWord 8 0x6D = some (.adcAbs 0) ∧
      decodeTableWord 8 0x4269 = some (.adcImm 0) ∧ decodeTableWord 8 0x02 = none :=
  ⟨rfl, rfl, rfl, rfl⟩

/-! ## One step: vectors F0 of 95_test_vectors.md, one for every opcode byte -/

/-- Six flags written in the spec's order N V D I Z C. -/
def nvdizc (b : BitVec 6) : Flags where
  c := b.getLsbD 0
  z := b.getLsbD 1
  i := b.getLsbD 2
  d := b.getLsbD 3
  v := b.getLsbD 4
  n := b.getLsbD 5

/-- The start state of F0, before the instruction is placed at 0x8000. -/
def start : State :=
  { State.reset with
    a := 0x81, x := 0x04, y := 0x10, sp := 0xFD, pc := 0x8000, flags := nvdizc 0b000001, es := .running
    mem :=
      [(0x0040, 0x7F), (0x0044, 0x80), (0x0050, 0x01), (0x0060, 0xF8), (0x0061, 0x30), (0x0075, 0x32),
        (0x0100, 0x12), (0x01FE, 0x41), (0x01FF, 0x90)] ++
      [(0x3000, 0xFF), (0x3001, 0x20), (0x3102, 0x10), (0x3108, 0xAA), (0x3200, 0x55)] }

/-- What every step leaves beside its effect: PC, the pending counter and the flags. -/
def ends (s : State) (pc : Word) (pending : Nat) (flags : BitVec 6) : State :=
  ((s.setPC pc).setPending pending).setFlags (nvdizc flags)

/-- One step from the start state with each listed instruction placed at 0x8000 gives the state beside it and fills the
last-instruction slot. -/
def runs (rows : List (List Byte × (State → State))) : Bool :=
  rows.all fun r =>
    let s := copyFrom 0x8000 r.1 start
    match step s with
    | .next t => t.setLast none == r.2 s && t.last.isSome
    | .fault _ => false
    | .refused _ => false

theorem test_adc :
    runs [([0x61, 0x70], fun s => ends (s.setA 0xD7) 0x8002 5 0b100000),
      ([0x65, 0x40], fun s => ends (s.setA 0x01) 0x8002 2 0b000001),
      ([0x69, 0x7F], fun s => ends (s.setA 0x01) 0x8002 1 0b000001),
      ([0x6D, 0x00, 0x30], fun s => ends s 0x8003 3 0b100001),
      ([0x71, 0x60], fun s => ends (s.setA 0x2C) 0x8002 5 0b010001),
      ([0x75, 0x40], fun s => ends (s.setA 0x02) 0x8002 3 0b010001),
      ([0x79, 0x00, 0x30], fun s => ends (s.setA 0x82) 0x8003 3 0b100000),
      ([0x7D, 0xFE, 0x30], fun s => ends (s.setA 0x92) 0x8003 4 0b100000)] = true := by
  decide

theorem test_and :
    runs [([0x21, 0x70], fun s => ends (s.setA 0x01) 0x8002 5 0b000001),
      ([0x25, 0x40], fun s => ends (s.setA 0x01) 0x8002 2 0b000001),
      ([0x29, 0x7F], fun s => ends (s.setA 0x01) 0x8002 1 0b000001),
      ([0x2D, 0x00, 0x30], fun s => ends s 0x8003 3 0b100001),
      ([0x31, 0x60], fun s => ends (s.setA 0x80) 0x8002 5 0b100001),
      ([0x35, 0x40], fun s => ends (s.setA 0x80) 0x8002 3 0b100001),
      ([0x39, 0x00, 0x30], fun s => ends (s.setA 0x00) 0x8003 3 0b000011),
      ([0x3D, 0xFE, 0x30], fun s => ends (s.setA 0x00) 0x8003 4 0b000011)] = true := by
  decide

theorem test_asl :
    runs [([0x06, 0x40], fun s => ends (s.writeByte 0x0040 0xFE) 0x8002 4 0b100000),
      ([0x0A], fun s => ends (s.setA 0x02) 0x8001 1 0b000001),
      ([0x0E, 0x00, 0x30], fun s => ends (s.writeByte 0x3000 0xFE) 0x8003 5 0b100001),
      ([0x16, 0x40], fun s => ends (s.writeByte 0x0044 0x00) 0x8002 5 0b000011),
      ([0x1E, 0xFE, 0x30], fun s => ends (s.writeByte 0x3102 0x20) 0x8003 6 0b000000)] = true := by
  decide

theorem test_bcc :
    runs [([0x90, 0x10], fun s => ends s 0x8002 1 0b000001)] = true := by
  decide

theorem test_bcs :
    runs [([0xB0, 0x10], fun s => ends s 0x8012 1 0b000001)] = true := by
  decide

theorem test_beq :
    runs [([0xF0, 0x10], fun s => ends s 0x8002 1 0b000001)] = true := by
  decide

theorem test_bit :
    runs [([0x24, 0x40], fun s => ends s 0x8002 2 0b010001),
      ([0x2C, 0x00, 0x30], fun s => ends s 0x8003 3 0b110001)] = true := by
  decide

theorem test_bmi :
    runs [([0x30, 0x10], fun s => ends s 0x8002 1 0b000001)] = true := by
  decide

theorem test_bne :
    runs [([0xD0, 0x10], fun s => ends s 0x8012 1 0b000001)] = true := by
  decide

theorem test_bpl :
    runs [([0x10, 0x10], fun s => ends s 0x8012 1 0b000001)] = true := by
  decide

theorem test_brk :
    runs [([0x00], fun s => ends (s.setStatus .halted) 0x8000 0 0b000001)] = true := by
  decide

theorem test_bvc :
    runs [([0x50, 0x10], fun s => ends s 0x8012 1 0b000001)] = true := by
  decide

theorem test_bvs :
    runs [([0x70, 0x10], fun s => ends s 0x8002 1 0b000001)] = true := by
  decide

theorem test_clc :
    runs [([0x18], fun s => ends s 0x8001 1 0b000000)] = true := by
  decide

theorem test_cld :
    runs [([0xD8], fun s => ends s 0x8001 1 0b000001)] = true := by
  decide

theorem test_cli :
    runs [([0x58], fun s => ends s 0x8001 1 0b000001)] = true := by
  decide

theorem test_clv :
    runs [([0xB8], fun s => ends s 0x8001 1 0b000001)] = true := by
  decide

theorem test_cmp :
    runs [([0xC1, 0x70], fun s => ends s 0x8002 5 0b000001),
      ([0xC5, 0x40], fun s => ends s 0x8002 2 0b000001),
      ([0xC9, 0x7F], fun s => ends s 0x8002 1 0b000001),
      ([0xCD, 0x00, 0x30], fun s => ends s 0x8003 3 0b100000),
      ([0xD1, 0x60], fun s => ends s 0x8002 5 0b100000),
      ([0xD5, 0x40], fun s => ends s 0x8002 3 0b000001),
      ([0xD9, 0x00, 0x30], fun s => ends s 0x8003 3 0b100001),
      ([0xDD, 0xFE, 0x30], fun s => ends s 0x8003 4 0b000001)] = true := by
  decide

theorem test_cpx :
    runs [([0xE0, 0x7F], fun s => ends s 0x8002 1 0b100000),
      ([0xE4, 0x40], fun s => ends s 0x8002 2 0b100000),
      ([0xEC, 0x00, 0x30], fun s => ends s 0x8003 3 0b000000)] = true := by
  decide

theorem test_cpy :
    runs [([0xC0, 0x7F], fun s => ends s 0x8002 1 0b100000),
      ([0xC4, 0x40], fun s => ends s 0x8002 2 0b100000),
      ([0xCC, 0x00, 0x30], fun s => ends s 0x8003 3 0b000000)] = true := by
  decide

theorem test_dec :
    runs [([0xC6, 0x40], fun s => ends (s.writeByte 0x0040 0x7E) 0x8002 4 0b000001),
      ([0xCE, 0x00, 0x30], fun s => ends (s.writeByte 0x3000 0xFE) 0x8003 5 0b100001),
      ([0xD6, 0x40], fun s => ends (s.writeByte 0x0044 0x7F) 0x8002 5 0b000001),
      ([0xDE, 0xFE, 0x30], fun s => ends (s.writeByte 0x3102 0x0F) 0x8003 6 0b000001)] = true := by
  decide

theorem test_dex :
    runs [([0xCA], fun s => ends (s.setX 0x03) 0x8001 1 0b000001)] = true := by
  decide

theorem test_dey :
    runs [([0x88], fun s => ends (s.setY 0x0F) 0x8001 1 0b000001)] = true := by
  decide

theorem test_eor :
    runs [([0x41, 0x70], fun s => ends (s.setA 0xD4) 0x8002 5 0b100001),
      ([0x45, 0x40], fun s => ends (s.setA 0xFE) 0x8002 2 0b100001),
      ([0x49, 0x7F], fun s => ends (s.setA 0xFE) 0x8002 1 0b100001),
      ([0x4D, 0x00, 0x30], fun s => ends (s.setA 0x7E) 0x8003 3 0b000001),
      ([0x51, 0x60], fun s => ends (s.setA 0x2B) 0x8002 5 0b000001),
      ([0x55, 0x40], fun s => ends (s.setA 0x01) 0x8002 3 0b000001),
      ([0x59, 0x00, 0x30], fun s => ends s 0x8003 3 0b100001),
      ([0x5D, 0xFE, 0x30], fun s => ends (s.setA 0x91) 0x8003 4 0b100001)] = true := by
  decide

theorem test_inc :
    runs [([0xE6, 0x40], fun s => ends (s.writeByte 0x0040 0x80) 0x8002 4 0b100001),
      ([0xEE, 0x00, 0x30], fun s => ends (s.writeByte 0x3000 0x00) 0x8003 5 0b000011),
      ([0xF6, 0x40], fun s => ends (s.writeByte 0x0044 0x81) 0x8002 5 0b100001),
      ([0xFE, 0xFE, 0x30], fun s => ends (s.writeByte 0x3102 0x11) 0x8003 6 0b000001)] = true := by
  decide

theorem test_inx :
    runs [([0xE8], fun s => ends (s.setX 0x05) 0x8001 1 0b000001)] = true := by
  decide

theorem test_iny :
    runs [([0xC8], fun s => ends (s.setY 0x11) 0x8001 1 0b000001)] = true := by
  decide

theorem test_jmp :
    runs [([0x4C, 0x00, 0x30], fun s => ends s 0x3000 2 0b000001),
      ([0x6C, 0x00, 0x30], fun s => ends s 0x20FF 4 0b000001)] = true := by
  decide

theorem test_jsr :
    runs [([0x20, 0x00, 0x30], fun s => ends (((s.setSP 0xFB).writeByte 0x01FD 0x80).writeByte 0x01FC 0x02) 0x3000 5 0b000001)] = true := by
  decide

theorem test_lda :
    runs [([0xA1, 0x70], fun s => ends (s.setA 0x55) 0x8002 5 0b000001),
      ([0xA5, 0x40], fun s => ends (s.setA 0x7F) 0x8002 2 0b000001),
      ([0xA9, 0x7F], fun s => ends (s.setA 0x7F) 0x8002 1 0b000001),
      ([0xAD, 0x00, 0x30], fun s => ends (s.setA 0xFF) 0x8003 3 0b100001),
      ([0xB1, 0x60], fun s => ends (s.setA 0xAA) 0x8002 5 0b100001),
      ([0xB5, 0x40], fun s => ends (s.setA 0x80) 0x8002 3 0b100001),
      ([0xB9, 0x00, 0x30], fun s => ends (s.setA 0x00) 0x8003 3 0b000011),
      ([0xBD, 0xFE, 0x30], fun s => ends (s.setA 0x10) 0x8003 4 0b000001)] = true := by
  decide

theorem test_ldx :
    runs [([0xA2, 0x7F], fun s => ends (s.setX 0x7F) 0x8002 1 0b000001),
      ([0xA6, 0x40], fun s => ends (s.setX 0x7F) 0x8002 2 0b000001),
      ([0xAE, 0x00, 0x30], fun s => ends (s.setX 0xFF) 0x8003 3 0b100001),
      ([0xB6, 0x40], fun s => ends (s.setX 0x01) 0x8002 3 0b000001),
      ([0xBE, 0x00, 0x30], fun s => ends (s.setX 0x00) 0x8003 3 0b000011)] = true := by
  decide

theorem test_ldy :
    runs [([0xA0, 0x7F], fun s => ends (s.setY 0x7F) 0x8002 1 0b000001),
      ([0xA4, 0x40], fun s => ends (s.setY 0x7F) 0x8002 2 0b000001),
      ([0xAC, 0x00, 0x30], fun s => ends (s.setY 0xFF) 0x8003 3 0b100001),
      ([0xB4, 0x40], fun s => ends (s.setY 0x80) 0x8002 3 0b100001),
      ([0xBC, 0xFE, 0x30], fun s => ends s 0x8003 4 0b000001)] = true := by
  decide

theorem test_lsr :
    runs [([0x46, 0x40], fun s => ends (s.writeByte 0x0040 0x3F) 0x8002 4 0b000001),
      ([0x4A], fun s => ends (s.setA 0x40) 0x8001 1 0b000001),
      ([0x4E, 0x00, 0x30], fun s => ends (s.writeByte 0x3000 0x7F) 0x8003 5 0b000001),
      ([0x56, 0x40], fun s => ends (s.writeByte 0x0044 0x40) 0x8002 5 0b000000),
      ([0x5E, 0xFE, 0x30], fun s => ends (s.writeByte 0x3102 0x08) 0x8003 6 0b000000)] = true := by
  decide

theorem test_nop :
    runs [([0xEA], fun s => ends s 0x8001 1 0b000001)] = true := by
  decide

theorem test_ora :
    runs [([0x01, 0x70], fun s => ends (s.setA 0xD5) 0x8002 5 0b100001),
      ([0x05, 0x40], fun s => ends (s.setA 0xFF) 0x8002 2 0b100001),
      ([0x09, 0x7F], fun s => ends (s.setA 0xFF) 0x8002 1 0b100001),
      ([0x0D, 0x00, 0x30], fun s => ends (s.setA 0xFF) 0x8003 3 0b100001),
      ([0x11, 0x60], fun s => ends (s.setA 0xAB) 0x8002 5 0b100001),
      ([0x15, 0x40], fun s => ends s 0x8002 3 0b100001),
      ([0x19, 0x00, 0x30], fun s => ends s 0x8003 3 0b100001),
      ([0x1D, 0xFE, 0x30], fun s => ends (s.setA 0x91) 0x8003 4 0b100001)] = true := by
  decide

theorem test_pha :
    runs [([0x48], fun s => ends ((s.setSP 0xFC).writeByte 0x01FD 0x81) 0x8001 2 0b000001)] = true := by
  decide

theorem test_php :
    runs [([0x08], fun s => ends ((s.setSP 0xFC).writeByte 0x01FD 0x31) 0x8001 2 0b000001)] = true := by
  decide

theorem test_pla :
    runs [([0x68], fun s => ends ((s.setA 0x41).setSP 0xFE) 0x8001 3 0b000001)] = true := by
  decide

theorem test_plp :
    runs [([0x28], fun s => ends (s.setSP 0xFE) 0x8001 3 0b010001)] = true := by
  decide

theorem test_rol :
    runs [([0x26, 0x40], fun s => ends (s.writeByte 0x0040 0xFF) 0x8002 4 0b100000),
      ([0x2A], fun s => ends (s.setA 0x03) 0x8001 1 0b000001),
      ([0x2E, 0x00, 0x30], fun s => ends (s.writeByte 0x3000 0xFF) 0x8003 5 0b100001),
      ([0x36, 0x40], fun s => ends (s.writeByte 0x0044 0x01) 0x8002 5 0b000001),
      ([0x3E, 0xFE, 0x30], fun s => ends (s.writeByte 0x3102 0x21) 0x8003 6 0b000000)] = true := by
  decide

theorem test_ror :
    runs [([0x66, 0x40], fun s => ends (s.writeByte 0x0040 0xBF) 0x8002 4 0b100001),
      ([0x6A], fun s => ends (s.setA 0xC0) 0x8001 1 0b100001),
      ([0x6E, 0x00, 0x30], fun s => ends (s.writeByte 0x3000 0xFF) 0x8003 5 0b100001),
      ([0x76, 0x40], fun s => ends (s.writeByte 0x0044 0xC0) 0x8002 5 0b100000),
      ([0x7E, 0xFE, 0x30], fun s => ends (s.writeByte 0x3102 0x88) 0x8003 6 0b100000)] = true := by
  decide

theorem test_rti :
    runs [([0x40], fun s => ends (s.setSP 0x00) 0x1290 5 0b010001)] = true := by
  decide

theorem test_rts :
    runs [([0x60], fun s => ends (s.setSP 0xFF) 0x9042 5 0b000001)] = true := by
  decide

theorem test_sbc :
    runs [([0xE1, 0x70], fun s => ends (s.setA 0x2C) 0x8002 5 0b010001),
      ([0xE5, 0x40], fun s => ends (s.setA 0x02) 0x8002 2 0b010001),
      ([0xE9, 0x7F], fun s => ends (s.setA 0x02) 0x8002 1 0b010001),
      ([0xED, 0x00, 0x30], fun s => ends (s.setA 0x82) 0x8003 3 0b100000),
      ([0xF1, 0x60], fun s => ends (s.setA 0xD7) 0x8002 5 0b100000),
      ([0xF5, 0x40], fun s => ends (s.setA 0x01) 0x8002 3 0b000001),
      ([0xF9, 0x00, 0x30], fun s => ends s 0x8003 3 0b100001),
      ([0xFD, 0xFE, 0x30], fun s => ends (s.setA 0x71) 0x8003 4 0b010001)] = true := by
  decide

theorem test_sec :
    runs [([0x38], fun s => ends s 0x8001 1 0b000001)] = true := by
  decide

theorem test_sed :
    runs [([0xF8], fun s => ends s 0x8001 1 0b001001)] = true := by
  decide

theorem test_sei :
    runs [([0x78], fun s => ends s 0x8001 1 0b000101)] = true := by
  decide

theorem test_sta :
    runs [([0x81, 0x70], fun s => ends (s.writeByte 0x3200 0x81) 0x8002 5 0b000001),
      ([0x85, 0x40], fun s => ends (s.writeByte 0x0040 0x81) 0x8002 2 0b000001),
      ([0x8D, 0x00, 0x30], fun s => ends (s.writeByte 0x3000 0x81) 0x8003 3 0b000001),
      ([0x91, 0x60], fun s => ends (s.writeByte 0x3108 0x81) 0x8002 5 0b000001),
      ([0x95, 0x40], fun s => ends (s.writeByte 0x0044 0x81) 0x8002 3 0b000001),
      ([0x99, 0x00, 0x30], fun s => ends (s.writeByte 0x3010 0x81) 0x8003 4 0b000001),
      ([0x9D, 0xFE, 0x30], fun s => ends (s.writeByte 0x3102 0x81) 0x8003 4 0b000001)] = true := by
  decide

theorem test_stx :
    runs [([0x86, 0x40], fun s => ends (s.writeByte 0x0040 0x04) 0x8002 2 0b000001),
      ([0x8E, 0x00, 0x30], fun s => ends (s.writeByte 0x3000 0x04) 0x8003 3 0b000001),
      ([0x96, 0x40], fun s => ends (s.writeByte 0x0050 0x04) 0x8002 3 0b000001)] = true := by
  decide

theorem test_sty :
    runs [([0x84, 0x40], fun s => ends (s.writeByte 0x0040 0x10) 0x8002 2 0b000001),
      ([0x8C, 0x00, 0x30], fun s => ends (s.writeByte 0x3000 0x10) 0x8003 3 0b000001),
      ([0x94, 0x40], fun s => ends (s.writeByte 0x0044 0x10) 0x8002 3 0b000001)] = true := by
  decide

theorem test_tax :
    runs [([0xAA], fun s => ends (s.setX 0x81) 0x8001 1 0b100001)] = true := by
  decide

theorem test_tay :
    runs [([0xA8], fun s => ends (s.setY 0x81) 0x8001 1 0b100001)] = true := by
  decide

theorem test_tsx :
    runs [([0xBA], fun s => ends (s.setX 0xFD) 0x8001 1 0b100001)] = true := by
  decide

theorem test_txa :
    runs [([0x8A], fun s => ends (s.setA 0x04) 0x8001 1 0b000001)] = true := by
  decide

theorem test_txs :
    runs [([0x9A], fun s => ends (s.setSP 0x04) 0x8001 1 0b000001)] = true := by
  decide

theorem test_tya :
    runs [([0x98], fun s => ends (s.setA 0x10) 0x8001 1 0b000001)] = true := by
  decide

/-! ## Corners: vectors F1 to F4 -/

/-- One step from the start state as `change` alters it, with the instruction placed at `pc`, meets `check`. -/
def after (pc : Word) (bytes : List Byte) (change : State → State) (check : State → Bool) : Bool :=
  match step (copyFrom pc bytes ((change start).setPC pc)) with
  | .next t => check t
  | .fault _ => false
  | .refused _ => false

/-- F1.1, F1.2, F1.4: zero and negative results, stale Z cleared, a load through the read mirror. -/
theorem test_lda_corners :
    (after 0x8000 [0xA9, 0x00] id (fun t => t.a == 0x00 && t.flags == nvdizc 0b000011) &&
      after 0x8000 [0xA9, 0x80] (·.setFlags (nvdizc 0b000011)) (fun t => t.flags == nvdizc 0b100001) &&
      after 0x8000 [0xAD, 0x00, 0x09] (fun s => (s.writeByte 0x0100 0x3C).writeByte 0x0900 0xC3)
        (fun t => t.a == 0x3C)) = true := by
  decide

/-- F1.5, F1.6: a store is not mirrored and sets no flag; zero-page indexing wraps. -/
theorem test_sta_corners :
    (after 0x8000 [0x8D, 0x00, 0x09] (·.writeByte 0x0100 0x3C)
        (fun t => t.cell 0x0900 == 0x81 && t.cell 0x0100 == 0x3C && t.readByte 0x0900 == 0x3C &&
          t.flags == nvdizc 0b000001) &&
      after 0x8000 [0x95, 0xFF] id (fun t => t.cell 0x0003 == 0x81)) = true := by
  decide

/-- F1.7, F1.8, F1.10: TXS sets no flag, TSX does, LDX zero-page,Y wraps. -/
theorem test_transfer_corners :
    (after 0x8000 [0x9A] (fun s => (s.setX 0).setFlags (nvdizc 0b100001))
        (fun t => t.sp == 0x00 && t.flags == nvdizc 0b100001) &&
      after 0x8000 [0xBA] (·.setSP 0) (fun t => t.x == 0x00 && t.flags == nvdizc 0b000011) &&
      after 0x8000 [0xB6, 0xF0] id (fun t => t.x == 0x00 && t.flags == nvdizc 0b000011)) = true := by
  decide

/-- F2.2, F2.3, F2.5, F2.6, F2.8: overflow, carry, carry in, the largest sum, and D without effect. -/
theorem test_adc_corners :
    (after 0x8000 [0x69, 0x50] (fun s => (s.setA 0x50).setC false)
        (fun t => t.a == 0xA0 && t.flags == nvdizc 0b110000) &&
      after 0x8000 [0x69, 0x90] (fun s => (s.setA 0xD0).setC false)
        (fun t => t.a == 0x60 && t.flags == nvdizc 0b010001) &&
      after 0x8000 [0x69, 0x00] (·.setA 0x7F) (fun t => t.a == 0x80 && t.flags == nvdizc 0b110000) &&
      after 0x8000 [0x69, 0xFF] (·.setA 0xFF) (fun t => t.a == 0xFF && t.flags == nvdizc 0b100001) &&
      after 0x8000 [0x69, 0x01] (fun s => (s.setA 0x09).setFlags (nvdizc 0b001000))
        (fun t => t.a == 0x0A && t.flags == nvdizc 0b001000)) = true := by
  decide

/-- F2.9, F2.10, F2.13, F2.14, F2.16: borrow, overflow with borrow, -128 - 1, C = 0 subtracts one more, D without effect. -/
theorem test_sbc_corners :
    (after 0x8000 [0xE9, 0xF0] (·.setA 0x50) (fun t => t.a == 0x60 && t.flags == nvdizc 0b000000) &&
      after 0x8000 [0xE9, 0xB0] (·.setA 0x50) (fun t => t.a == 0xA0 && t.flags == nvdizc 0b110000) &&
      after 0x8000 [0xE9, 0x01] (·.setA 0x80) (fun t => t.a == 0x7F && t.flags == nvdizc 0b010001) &&
      after 0x8000 [0xE9, 0x05] (fun s => (s.setA 0x05).setC false)
        (fun t => t.a == 0xFF && t.flags == nvdizc 0b100000) &&
      after 0x8000 [0xE9, 0x01] (fun s => (s.setA 0x10).setFlags (nvdizc 0b001001))
        (fun t => t.a == 0x0F && t.flags == nvdizc 0b001001)) = true := by
  decide

/-- F2.23, F2.24, F2.26, F2.27: equal, less, and unsigned comparison with N from the difference. -/
theorem test_cmp_corners :
    (after 0x8000 [0xC9, 0x40] (fun s => (s.setA 0x40).setFlags (nvdizc 0b010000))
        (fun t => t.a == 0x40 && t.flags == nvdizc 0b010011) &&
      after 0x8000 [0xC9, 0x41] (fun s => (s.setA 0x40).setFlags (nvdizc 0b010000))
        (fun t => t.flags == nvdizc 0b110000) &&
      after 0x8000 [0xC9, 0x00] (·.setA 0x80) (fun t => t.flags == nvdizc 0b100001) &&
      after 0x8000 [0xC9, 0x80] (·.setA 0x00) (fun t => t.flags == nvdizc 0b100000)) = true := by
  decide

/-- F2.30, F2.31, F2.33: N and V from the operand's bits 7 and 6, Z from A and the operand. -/
theorem test_bit_corners :
    (after 0x8000 [0x24, 0x40] (fun s => (s.setA 0x01).writeByte 0x40 0xC0)
        (fun t => t.a == 0x01 && t.flags == nvdizc 0b110011) &&
      after 0x8000 [0x24, 0x40] (fun s => (s.setA 0xFF).writeByte 0x40 0x3F) (fun t => t.flags == nvdizc 0b000001) &&
      after 0x8000 [0x24, 0x40] (fun s => (s.setA 0x00).writeByte 0x40 0x80)
        (fun t => t.flags == nvdizc 0b100011)) = true := by
  decide

/-- F2.34 to F2.36, F2.38: INC and DEC wrap, and read through the mirror but write past it. -/
theorem test_inc_dec_corners :
    (after 0x8000 [0xE6, 0x40] (·.writeByte 0x40 0xFF) (fun t => t.cell 0x40 == 0x00 && t.flags == nvdizc 0b000011) &&
      after 0x8000 [0xE6, 0x40] id (fun t => t.cell 0x40 == 0x80 && t.flags == nvdizc 0b100001) &&
      after 0x8000 [0xC6, 0x40] (·.writeByte 0x40 0x00) (fun t => t.cell 0x40 == 0xFF && t.flags == nvdizc 0b100001) &&
      after 0x8000 [0xEE, 0x00, 0x09] (fun s => (s.writeByte 0x0100 0x41).writeByte 0x0900 0x99)
        (fun t => t.cell 0x0900 == 0x42 && t.cell 0x0100 == 0x41)) = true := by
  decide

/-- F2.43 to F2.50: the bit that falls out, the bit that enters. -/
theorem test_shift_corners :
    (after 0x8000 [0x0A] (fun s => (s.setA 0x40).setC true) (fun t => t.a == 0x80 && t.flags == nvdizc 0b100000) &&
      after 0x8000 [0x4A] (fun s => (s.setA 0x01).setC false) (fun t => t.a == 0x00 && t.flags == nvdizc 0b000011) &&
      after 0x8000 [0x2A] (fun s => (s.setA 0x80).setC true) (fun t => t.a == 0x01 && t.flags == nvdizc 0b000001) &&
      after 0x8000 [0x6A] (fun s => (s.setA 0x01).setC true) (fun t => t.a == 0x80 && t.flags == nvdizc 0b100001) &&
      after 0x8000 [0x66, 0x40] (·.writeByte 0x40 0x02)
        (fun t => t.cell 0x40 == 0x81 && t.a == 0x81 && t.flags == nvdizc 0b100000)) = true := by
  decide

/-- F3.1 to F3.7: the largest displacements, not taken, and targets that wrap modulo 65536. -/
theorem test_branch_corners :
    (after 0x8000 [0xD0, 0x7F] id (fun t => t.pc == 0x8081 && t.pending == 1) &&
      after 0x8000 [0xD0, 0x80] id (fun t => t.pc == 0x7F82) &&
      after 0x8000 [0xD0, 0x7F] (·.setFlags (nvdizc 0b000010)) (fun t => t.pc == 0x8002 && t.pending == 1) &&
      after 0xFFF0 [0xF0, 0x10] (·.setFlags (nvdizc 0b000010)) (fun t => t.pc == 0x0002) &&
      after 0x0005 [0x90, 0xF0] (·.setC false) (fun t => t.pc == 0xFFF7)) = true := by
  decide

/-- F3.15: the indirect jump takes its high byte from the next page. -/
theorem test_jmp_corners :
    after 0x8000 [0x6C, 0xFF, 0x30]
      (fun s => ((s.writeByte 0x30FF 0x34).writeByte 0x3100 0x12).writeByte 0x3000 0x99)
      (fun t => t.pc == 0x1234 && t.pending == 4) = true := by
  decide

/-- F3.16 to F3.18: the stack wraps inside its page, the return adds one modulo 65536, RTI restores all six flags. -/
theorem test_call_return_corners :
    (after 0x80FE [0x20, 0x34, 0x12] (·.setSP 0x00)
        (fun t => t.pc == 0x1234 && t.sp == 0xFE && t.cell 0x0100 == 0x81 && t.cell 0x01FF == 0x00) &&
      after 0x8000 [0x60] (fun s => ((s.writeByte 0x0100 0xFF).writeByte 0x0101 0xFF).setSP 0xFF)
        (fun t => t.pc == 0x0000 && t.sp == 0x01) &&
      after 0x8000 [0x40]
        (fun s => (((s.writeByte 0x01FE 0xFF).writeByte 0x01FF 0x34).writeByte 0x0100 0x12).setC false)
        (fun t => t.pc == 0x1234 && t.sp == 0x00 && t.flags == nvdizc 0b111111)) = true := by
  decide

/-- F4.1 to F4.3, F4.5, F4.7, F4.9: the pushed status byte, its bits 4 and 5 dropped on a pull, pointer wraps. -/
theorem test_stack_corners :
    (after 0x8000 [0x08] (·.setFlags (nvdizc 0b000000)) (fun t => t.sp == 0xFC && t.cell 0x01FD == 0x30) &&
      after 0x8000 [0x08] (·.setFlags (nvdizc 0b111111)) (fun t => t.cell 0x01FD == 0xFF) &&
      after 0x8000 [0x08] (fun s => (s.setFlags (nvdizc 0b100001)).setSP 0)
        (fun t => t.sp == 0xFF && t.cell 0x0100 == 0xB1) &&
      after 0x8000 [0x28] (fun s => (s.writeByte 0x01FE 0x00).setFlags (nvdizc 0b110001))
        (fun t => t.sp == 0xFE && t.flags == nvdizc 0b000000) &&
      after 0x8000 [0x48] (·.setA 0) (fun t => t.sp == 0xFC && t.flags == nvdizc 0b000001) &&
      after 0x8000 [0x68] (fun s => (s.writeByte 0x0100 0x80).setSP 0xFF)
        (fun t => t.a == 0x80 && t.sp == 0x00 && t.flags == nvdizc 0b100001)) = true := by
  decide

/-! ## Memory, stack, status: vectors S1, S7, M, K -/

/-- S1: SetZN. -/
theorem test_setZN :
    ((start.setZN 0x00).flags.z, (start.setZN 0x00).flags.n) = (true, false) ∧
      ((start.setZN 0x80).flags.z, (start.setZN 0x80).flags.n) = (false, true) ∧
      ((start.setZN 0x7F).flags.z, (start.setZN 0x7F).flags.n) = (false, false) := by
  decide

/-- S7: the status byte in both contexts. -/
theorem test_encodeStatus :
    encodeStatus (nvdizc 0b100101) false = 0xA5 ∧ encodeStatus (nvdizc 0b100101) true = 0xB5 ∧
      encodeStatus (nvdizc 0b011010) false = 0x6A ∧ decodeStatus 0x7A = nvdizc 0b011010 := by
  decide

/-- M1, M2, M5: the four aliases of a low cell; a write past the mirror; a word read across the mirror's edge. -/
theorem test_mirror :
    ((start.writeByte 0x0000 0x11).readByte 0x1800 == 0x11 &&
      ((start.writeByte 0x0000 0x11).writeByte 0x0800 0x22).readByte 0x0800 == 0x11 &&
      (((start.writeByte 0x07FF 0x33).writeByte 0x0000 0x66).writeByte 0x0800 0x77).readWord 0x07FF
        matches .ok 0x6633#16) = true := by
  decide

/-- M6, M7: a word access at 0xFFFF under both policies. -/
theorem test_top_of_memory :
    ((start.writeWord 0xFFFF 0x1234 matches .ok _) &&
      ({ start with cfg := { Config.ref with topWrap := .fault } } : State).readWord 0xFFFF
        matches .error (.memory 0xFFFF#16)) = true := by
  decide

/-- Writing 0 removes the entry, so equal memories are equal lists (10_state.md R43). -/
theorem test_memory_canonical :
    Memory.put [(0x10, 1), (0x20, 2)] 0x10 0 = [(0x20, 2)] ∧
      Memory.put [(0x10, 1), (0x20, 2)] 0x18 5 = [(0x10, 1), (0x18, 5), (0x20, 2)] ∧
      Memory.put [(0x10, 1), (0x20, 2)] 0x20 7 = [(0x10, 1), (0x20, 7)] := by
  decide

/-- K1, K2, K5: the pointer wraps in the page; on a page in the unreadable range a pop does not return what was pushed. -/
theorem test_stack_controller :
    ((start.setSP 0x00).push 0x99).cell 0x0100 = 0x99 ∧ ((start.setSP 0x00).push 0x99).sp = 0xFF ∧
      ((start.setSP 0xFF).writeByte 0x0100 0x77).pop.1 = 0x77 ∧
      (({ start with cfg := { Config.ref with stackBase := 0x0900 }, sp := 0xFF } : State).push 0xAB).pop.1 = 0x90 := by
  decide

/-! ## Resolver, engine, reset, load: vectors A, E, L -/

/-- A4, A8, A10, A13, A15: wraps and page crossings. -/
theorem test_resolve :
    let at8000 (bytes : List Byte) (x y : Byte) (mem : List (Word × Byte)) : State :=
      copyFrom 0x8000 bytes (mem.foldl (fun s p => s.writeByte p.1 p.2) { State.reset with x := x, y := y })
    (resolveLoc .ZPX 0x00FF (at8000 [] 0x02 0 []) = (.addr 0x0001, false)) ∧
      (resolveLoc .ABX 0xFFFF (at8000 [] 0x01 0 []) = (.addr 0x0000, true)) ∧
      (resolveLoc .ABY 0x2080 (at8000 [] 0 0x80 []) = (.addr 0x2100, true)) ∧
      (resolveLoc .IZX 0x00FE (at8000 [] 0x01 0 [(0x00FF, 0x34), (0x0000, 0x12)]) = (.addr 0x1234, false)) ∧
      (resolveLoc .IZY 0x00FF (at8000 [] 0 0x01 [(0x00FF, 0xFF), (0x0000, 0xFF)]) = (.addr 0x0000, true)) := by
  decide

/-- E2, E11: break halts with PC and the counter as they are, but for the decrement of the iteration that runs it. -/
theorem test_break :
    (match step (State.reset.setPending 5) with
      | .next t => t.es == .halted && t.pc == 0 && t.pending == 4 && t.last.map InstrRecord.op == some .BRK
      | _ => false) = true := by
  decide

/-- E5, E8: the sentinel halts before a fetch and before the counter is decremented. -/
theorem test_sentinel :
    step { State.reset with pc := 0xFFFF, pending := 3 } =
      .next { State.reset with pc := 0xFFFF, pending := 3, es := .halted } := rfl

/-- E1: an illegal opcode faults; E12: the counter spends one and then takes the base count minus one. -/
theorem test_step_fault_and_charge :
    (step (copyFrom 0x8000 [0x02] start) matches .fault (.decode 0x02#8)) = true ∧
      after 0x8000 [0xAD, 0x00, 0x30] (·.setPending 3) (fun t => t.pending == 5) = true := by
  decide

/-- E10: a missing handler faults at dispatch. -/
theorem test_dispatch_fault :
    (engineStep ⟨optable, fun _ => none⟩ (copyFrom 0x8000 [0xA9, 0x01] start) matches .fault (.dispatch .LDA)) = true := by
  decide

/-- A caller-supplied table and handlers: break, an operation outside the reference set that loads X, and one whose handler
reports a failure. -/
def callerInputs : EngineInputs where
  optable opc :=
    if opc = 0x00 then some ⟨.BRK, .IMP, 7, false⟩
    else if opc = 0x02 then some ⟨.other 0, .IMM, 3, false⟩
    else if opc = 0x03 then some ⟨.other 1, .IMP, 2, false⟩
    else none
  handlers op :=
    if op = .other 0 then some fun ins s => .ok (s.setX (operandRead ins s))
    else if op = .other 1 then some fun _ s => .error ⟨.handler .stack [7], s⟩
    else none

/-- A run under caller-supplied inputs, the reference row of no use: X loaded, two cycles pending, one spent, break. -/
theorem test_run_with_caller_inputs :
    (match runBounded callerInputs 5 (copyFrom 0x8000 [0x02, 0x7F, 0x00] start) with
      | .next t => t.x == 0x7F && t.pc == 0x8002 && t.es == .halted && t.pending == 1
      | _ => false) = true := by
  decide

/-- A handler's failure reaches the host with the kind and the information it reports (41_engine_step.md R160 line 6), and
leaves PC advanced (70_reset_and_hazards.md R382 (d)). -/
theorem test_handler_failure :
    (match runBounded callerInputs 5 (copyFrom 0x8000 [0x03] start) with
      | .fault (.handler .stack [7]) => true
      | _ => false) = true ∧
      ((stateAtFault callerInputs (copyFrom 0x8000 [0x03] start)).map State.pc) = some 0x8001 := by
  decide

/-- The first step after reset with nothing placed: byte 0x00 at 0x0000 is break, which halts (log 9). -/
theorem test_step_from_reset :
    step State.reset =
      .next { State.reset with es := .halted, last := some ⟨.BRK, .IMP, 7, false, .none, 0, 1, false⟩ } := rfl

/-- A placed word runs as the first instruction after reset. -/
theorem test_withFetchWord :
    (match step (State.reset.withFetchWord 16 0x7FA9) with
      | .next t => t.a == 0x7F && t.pc == 2
      | _ => false) = true := by
  decide

/-- L1: reset writes X, Y, PC, the status and the slot, and nothing else. -/
theorem test_reset :
    (match resetOperation (((start.writeByte 0xFFFD 0x80).setPending 9).setStatus .halted) with
      | .next t =>
        t.x == 0 && t.y == 0 && t.pc == 0x8000 && t.es == .idle && t.last == none && t.a == 0x81 && t.sp == 0xFD &&
          t.flags == nvdizc 0b000001 && t.pending == 9
      | _ => false) = true := by
  decide

/-- L3, L4: the production load resets, the test load does not. -/
theorem test_loads :
    (match loadProduction [0xA9, 0x01, 0x00] start, loadTest [0xA9, 0x01, 0x00] start with
      | .next t, .next u =>
        t.cell 0x8001 == 0x01 && t.cell 0xFFFD == 0x80 && t.pc == 0x8000 && t.x == 0 &&
          u.cell 0x8000 == 0xA9 && u.cell 0xFFFF == 0x80 && u.pc == 0x8000 && u.x == 0x04
      | _, _ => false) = true := by
  decide

/-! ## State right after reset: what the spec gives (10_state.md R46, 70_reset_and_hazards.md R361 to R365) -/

theorem test_reset_state :
    State.reset.x = 0 ∧ State.reset.y = 0 ∧ State.reset.pc = 0 ∧ State.reset.mem = [] ∧ State.reset.es = .idle ∧
      State.reset.pending = 0 ∧ State.reset.last = none ∧ State.reset.cfg = Config.ref :=
  ⟨rfl, rfl, rfl, rfl, rfl, rfl, rfl, rfl⟩

/-! ## Witnesses: a state and operands that meet the hypotheses of each obligation -/

/-- The reference configuration with the faulting top of memory. -/
def faulting : State := { State.reset with cfg := { Config.ref with topWrap := .fault } }

/-- The reset state with bytes placed at 0x8000 and PC there. -/
def at8000 (bytes : List Byte) : State := copyFrom 0x8000 bytes (State.reset.setPC 0x8000)

/-- EncodeOfDecode. -/
theorem witness_EncodeOfDecode : decode [0xA9, 0x01, 0xEA] = .ok (.ldaImm 0x01, [0xEA]) := rfl

/-- StatusRoundTrip: a byte whose bit 5 is 0, and one whose bit 4 is not the context. -/
theorem witness_StatusRoundTrip : (0x10 : Byte).getLsbD 5 = false ∧ (0x30 : Byte).getLsbD 4 ≠ false := by decide

/-- ReadMirror: both sides of 0x2000. -/
theorem witness_ReadMirror : (0x1FFF : Word).toNat < 0x2000 ∧ 0x2000 ≤ (0x2000 : Word).toNat := by decide

/-- WriteThenRead: the edges of the three ranges. -/
theorem witness_WriteThenRead :
    ((0x07FF : Word).toNat < 0x0800 ∧ 3 < 4) ∧ 0x2000 ≤ (0x2000 : Word).toNat ∧
      (0x0800 ≤ (0x0800 : Word).toNat ∧ (0x1FFF : Word).toNat < 0x2000) := by
  decide

/-- WordRoundTrip: the edges of the ranges. -/
theorem witness_WordRoundTrip :
    ((0x07FE : Word) ≠ 0xFFFF ∧ (0x07FE : Word).toNat ≤ 0x07FE) ∧ ((0xFFFE : Word) ≠ 0xFFFF ∧ 0x2000 ≤ (0xFFFE : Word).toNat) ∧
      ((0x07FF : Word) ≠ 0xFFFF ∧ 0x07FF ≤ (0x07FF : Word).toNat ∧ (0x07FF : Word).toNat ≤ 0x1FFF) := by
  decide

/-- TopOfMemoryPolicy: both policies. -/
theorem witness_TopOfMemoryPolicy : State.reset.cfg.topWrap = .wrap ∧ faulting.cfg.topWrap = .fault := ⟨rfl, rfl⟩

/-- WordPushPlacement: an aligned stack page. -/
theorem witness_WordPushPlacement : loByte State.reset.cfg.stackBase = 0 := by decide

/-- StackIsLifo: an admissible configuration, and a sequence of the greatest length. -/
theorem witness_StackIsLifo : State.reset.cfg.admissible = true ∧ (List.replicate 256 (0x5A : Byte)).length ≤ 256 := by
  rw [List.length_replicate]
  decide

/-- ResolverByMode: the two-byte operand at 0xFFFF under wrap; elsewhere under fault, with a pointer that is not 0xFFFF. -/
theorem witness_ResolverByMode :
    State.reset.cfg.topWrap = .wrap ∧ (0x8000 : Word) + 1 ≠ 0xFFFF ∧
      mkWord (faulting.readByte (0x8000 + 1)) (faulting.readByte (0x8000 + 1 + 1)) ≠ 0xFFFF := by
  decide

/-- ResolverFaults: both of its causes occur. -/
theorem witness_ResolverFaults :
    resolve .ABS 0xFFFE faulting = .error (.memory 0xFFFF) ∧
      resolve .IND 0x8000 (copyFrom 0x8001 [0xFF, 0xFF] faulting) = .error (.memory 0xFFFF) := ⟨rfl, rfl⟩

/-- OperandAccessor: a record with an address, one without in each of the two modes. -/
theorem witness_OperandAccessor :
    (instrRecord (.ldaZp 0x40) start).loc = .addr 0x0040 ∧ (instrRecord (.ldaImm 0x7F) start).loc = .none ∧
      (instrRecord .aslAcc start).loc = .none := ⟨rfl, rfl, rfl⟩

/-- StepRunsDecodedInstruction: an instruction of each length, the last under the faulting policy. -/
theorem witness_StepRunsDecodedInstruction :
    (let s := at8000 [0xAD, 0x00, 0x30]
     s.es ≠ .halted ∧ s.pc ≠ s.cfg.breakSentinel ∧
        (decode [s.readByte s.pc, s.readByte (s.pc + 1), s.readByte (s.pc + 2)] matches .ok (.ldaAbs 0x3000#16, _)) = true ∧
        ¬ ((Instr.ldaAbs 0x3000).len = 3 ∧ s.pc + 1 = 0xFFFF ∧ s.cfg.topWrap = .fault)) ∧
    (let s := { faulting with pc := 0xFFFE }
     s.es ≠ .halted ∧ s.pc ≠ s.cfg.breakSentinel ∧
        (decode [s.readByte s.pc, s.readByte (s.pc + 1), s.readByte (s.pc + 2)] matches .ok (.brk, _)) = true ∧
        ¬ (Instr.brk.len = 3 ∧ s.pc + 1 = 0xFFFF ∧ s.cfg.topWrap = .fault)) := by
  decide

/-- IllegalOpcodeFaults: the machine at an illegal byte; the engine over a caller's table. -/
theorem witness_IllegalOpcodeFaults :
    (let s := at8000 [0x02]
     s.es ≠ .halted ∧ s.pc ≠ s.cfg.breakSentinel ∧ optable (s.readByte s.pc) = none) ∧
      (let s := at8000 [0xA9]
       callerInputs.optable (s.readByte s.pc) = none) := by
  decide

/-- SentinelAndHaltedEngine: at the sentinel; halted. -/
theorem witness_SentinelAndHaltedEngine :
    (let s := State.reset.setPC 0xFFFF
     s.es ≠ .halted ∧ s.pc = s.cfg.breakSentinel) ∧ (State.reset.setStatus .halted).es = .halted := by
  decide

/-- BreakOnlyHalts: the reset state's first byte is break in the reference table. -/
theorem witness_BreakOnlyHalts :
    State.reset.es ≠ .halted ∧ State.reset.pc ≠ State.reset.cfg.breakSentinel ∧
      (optable (State.reset.readByte State.reset.pc)).map Entry.op = some .BRK ∧
      optable (State.reset.readByte State.reset.pc) = some ⟨.BRK, .IMP, 7, false⟩ ∧
      resolve .IMP State.reset.pc State.reset = .ok ⟨.none, 0, 1, false⟩ :=
  ⟨by decide, by decide, rfl, rfl, rfl⟩

/-- MissingOrFailingHandlerFaults: LDA with no handler, and a handler that reports a failure. -/
theorem witness_MissingOrFailingHandlerFaults :
    (let s := at8000 [0xA9, 0x01]
     let w : EngineInputs := ⟨optable, fun _ => none⟩
     w.optable (s.readByte s.pc) = some ⟨.LDA, .IMM, 2, false⟩ ∧ Op.LDA ≠ .BRK ∧
       resolve .IMM s.pc s = .ok ⟨.none, 0x0001, 2, false⟩ ∧ w.handlers .LDA = none) ∧
    (let s := at8000 [0x03]
     callerInputs.optable (s.readByte s.pc) = some ⟨.other 1, .IMP, 2, false⟩ ∧ Op.other 1 ≠ .BRK ∧
       resolve .IMP s.pc s = .ok ⟨.none, 0, 1, false⟩ ∧
       callerInputs.handlers (.other 1) = some fun _ s => .error ⟨.handler .stack [7], s⟩) ∧
    (HandlerProgram.fail .stack [7]).KeepsPC ∧
    ∀ (ins : InstrRecord) (s : State),
      (HandlerProgram.fail .stack [7]).run ins s = .error ⟨.handler .stack [7], s⟩ :=
  ⟨⟨rfl, by decide, rfl, rfl⟩, ⟨rfl, by decide, rfl, rfl⟩, trivial, fun _ _ => rfl⟩

/-- BoundedRunIsIteratedStep, RunEnds, HookSeesPreMutationState, CommandsKeepInvariant, ConfigurationIsFixed,
PendingIsUnobservable: caller-supplied inputs that are well-formed. -/
theorem witness_wellFormed_inputs : callerInputs.WellFormed := by
  constructor
  · intro opc e h
    simp only [callerInputs] at h
    split at h
    · cases h; decide
    · split at h
      · cases h; decide
      · split at h
        · cases h; decide
        · cases h
  · intro op h hh
    simp only [callerInputs] at hh
    split at hh
    · cases hh
      exact ⟨fun _ => .readOperand fun v => .put .X v .done, fun _ _ => rfl⟩
    · split at hh
      · cases hh
        exact ⟨fun _ => .fail .stack [7], fun _ _ => rfl⟩
      · cases hh

/-- Inputs that are not: a table entry of 0 cycles (00_scope.md R7 (e)), and a handler that writes the engine status
(41_engine_step.md R178). -/
theorem test_inputs_refused :
    ¬ (EngineInputs.mk (fun _ => some ⟨.NOP, .IMP, 0, false⟩) fun _ => none).WellFormed ∧
      ¬ (EngineInputs.mk optable fun _ => some fun _ s => .ok (s.setStatus .halted)).WellFormed := by
  constructor
  · intro h
    exact absurd (h.cycles 0 _ rfl) (by decide)
  · intro h
    have := ((h.reach .NOP _ rfl).untouched ⟨.NOP, .IMP, 2, false, .none, 0, 1, false⟩ State.reset).es
    exact absurd this (by decide)

/-- A handler that tests BREAK_SENTINEL is not in its reach (41_engine_step.md R178): it tells two states apart that every
primitive reads alike. -/
theorem test_handler_reading_address_constant_refused :
    ¬ Handler.InReach fun _ s => if s.cfg.breakSentinel = 0xFFFF then .ok s else .ok (s.setX 1) := by
  intro h
  have hv := h.sameView ⟨.NOP, .IMP, 2, false, .none, 0, 1, false⟩
    (t := { State.reset with cfg := { State.reset.cfg with breakSentinel := 0xFFFE } })
    (SameView.mk (s := State.reset) (fun r => by cases r <;> rfl) rfl rfl (fun _ => rfl) rfl rfl)
  exact absurd (hv.register .X) (by decide)

/-- A handler that reads the cell 0x0900 past MemRead is not in its reach (41_engine_step.md R178): no read returns that
cell, which the bus mirrors away (20_memory.md R62). -/
theorem test_handler_reading_cell_refused :
    ¬ Handler.InReach fun _ s => .ok (s.setX (s.cell 0x0900)) := by
  intro h
  have hv := h.sameView ⟨.NOP, .IMP, 2, false, .none, 0, 1, false⟩
    (t := { State.reset with mem := [⟨0x0900, 1⟩] })
    (SameView.mk (s := State.reset) (fun r => by cases r <;> rfl) rfl rfl (fun a => ?_) rfl rfl)
  · exact absurd (hv.register .X) (by decide)
  · have ha := eff_plain a
    exact if_neg (by bv_omega)

/-- RunEnds: a run that ends by break, one that ends at the sentinel, one that faults; the first under the caller's inputs
too. -/
theorem witness_RunEnds :
    State.reset.es ≠ .halted ∧
      RunReturns .ref State.reset
        { State.reset with es := .halted, last := some ⟨.BRK, .IMP, 7, false, .none, 0, 1, false⟩ } ∧
      RunReturns callerInputs State.reset
        { State.reset with es := .halted, last := some ⟨.BRK, .IMP, 7, false, .none, 0, 1, false⟩ } ∧
      RunReturns .ref (State.reset.setPC 0xFFFF) ((State.reset.setPC 0xFFFF).setStatus .halted) ∧
      RunFaults .ref (at8000 [0x02]) (.decode 0x02) :=
  ⟨by decide, ⟨1, rfl, rfl⟩, ⟨1, rfl, rfl⟩, ⟨1, rfl, rfl⟩, ⟨1, rfl⟩⟩

/-- EngineStatusRule: both causes of a halt occur, and a halted state. -/
theorem witness_EngineStatusRule :
    State.reset.es ≠ .halted ∧ (∃ t, step State.reset = .next t ∧ t.es = .halted) ∧
      (∃ t, step (State.reset.setPC 0xFFFF) = .next t ∧ t.es = .halted) ∧ (State.reset.setStatus .halted).es = .halted :=
  ⟨by decide, ⟨_, rfl, rfl⟩, ⟨_, rfl, rfl⟩, rfl⟩

/-- StepFaultCauses: both causes occur. -/
theorem witness_StepFaultCauses :
    step (at8000 [0x02]) = .fault (.decode 0x02) ∧
      step (copyFrom 0x8000 [0x6C, 0xFF, 0xFF] (faulting.setPC 0x8000)) = .fault (.memory 0xFFFF) := ⟨rfl, rfl⟩

/-- HookSeesPreMutationState: a step; a bounded run that halts by break away from the sentinel, and one that exhausts its
budget. -/
theorem witness_HookSeesPreMutationState :
    (State.reset.es ≠ .halted ∧ State.reset.pc ≠ State.reset.cfg.breakSentinel ∧ ∃ t, step State.reset = .next t) ∧
      (∃ t, runBounded callerInputs 3 (at8000 [0x02, 0x7F, 0x00]) = .next t ∧ t.es = .halted ∧
        t.pc ≠ t.cfg.breakSentinel) ∧
      ∃ t, runBounded callerInputs 1 (at8000 [0x02, 0x7F, 0x00]) = .next t ∧ t.es ≠ .halted :=
  ⟨⟨by decide, by decide, _, rfl⟩, ⟨_, rfl, rfl, by decide⟩, _, rfl, by decide⟩

/-- The trace of a run: one event per executed instruction, in order (41_engine_step.md R172). -/
theorem test_trace :
    (trace callerInputs 5 (at8000 [0x02, 0x7F, 0x00])).map (fun ev => (ev.pc, ev.x, ev.ins.op)) =
      [(0x8000, 0x00, .other 0), (0x8002, 0x7F, .BRK)] := by
  decide

/-- EngineBookkeeping, FlagsChangeOnlyByTheirWriters, RegistersChangeOnlyByTheirWriters: NOP, on no list, and break. -/
theorem witness_exec_next :
    (∃ t, exec .nop start = .next t) ∧ (∃ t, exec .brk start = .next t) ∧ Instr.nop.op ≠ .BRK ∧ Instr.brk.op = .BRK ∧
      Instr.nop.op ∉ carryWriters ++ zeroNegativeWriters ++ overflowWriters ++ interruptWriters ++ decimalWriters ∧
      Instr.nop.op ∉ accumulatorWriters ++ xWriters ++ yWriters ++ stackPointerWriters ++ pcWriters ∧ Instr.nop.mode ≠ .ACC :=
  ⟨⟨_, rfl⟩, ⟨_, rfl⟩, by decide, rfl, by decide, by decide, by decide⟩

/-- HandlersSucceedInReach. -/
theorem witness_HandlersSucceedInReach : handlerOf .LDA = some handleLDA := rfl

/-- StepKeepsInvariant, ConfigurationIsFixed. -/
theorem witness_StepKeepsInvariant : Inv .ref State.reset ∧ ∃ t, step State.reset = .next t :=
  ⟨⟨by decide, by simp [State.reset], by simp [State.reset], by simp [State.reset]⟩, _, rfl⟩

/-- CommandsKeepInvariant, ConfigurationIsFixed: commands that answer next, from a state that meets the invariant. -/
theorem witness_CommandsKeepInvariant :
    Inv callerInputs State.reset ∧
      (∃ t, command callerInputs .reset State.reset = .next t) ∧
      (∃ t, command callerInputs (.loadTest [0xA9]) State.reset = .next t) ∧
      (∃ t, command callerInputs (.runBounded 3) State.reset = .next t) ∧
      (∃ t, command callerInputs (.writeMemory 0 1) State.reset = .next t) ∧
      ∃ t, loopIteration callerInputs State.reset = .next t :=
  ⟨⟨by decide, by simp [State.reset], by simp [State.reset], by simp [State.reset]⟩, ⟨_, rfl⟩, ⟨_, rfl⟩, ⟨_, rfl⟩,
    ⟨_, rfl⟩, _, rfl⟩

/-- DecimalFlagIsInert. -/
theorem witness_DecimalFlagIsInert : (Instr.adcImm 0x01).op ≠ .PHP := by decide

/-- MemoryChangesOnlyAtStoreTargets: a store, a push and a form that stores nothing, each with a cell outside. -/
theorem witness_MemoryChangesOnlyAtStoreTargets :
    (∃ t, exec (.staAbs 0x0900) start = .next t) ∧ (0x0100 : Word) ∉ storeTargets (.staAbs 0x0900) start ∧
      (∃ t, exec (.jsr 0x1234) start = .next t) ∧ (0x01FB : Word) ∉ storeTargets (.jsr 0x1234) start ∧
      storeTargets .aslAcc start = [] :=
  ⟨⟨_, rfl⟩, by decide, ⟨_, rfl⟩, by decide, rfl⟩

/-- LoadsComplete, StoresComplete, LogicComplete, ComparesAndBitTestComplete, AddSubtractComplete: one form of each. -/
theorem witness_operations :
    (Instr.ldaIzy 0x60).op = .LDA ∧ (Instr.ldxZpy 0x40).op = .LDX ∧ (Instr.ldyAbx 0x30FE).op = .LDY ∧
      (Instr.staIzx 0x70).op = .STA ∧ (Instr.stxZpy 0x40).op = .STX ∧ (Instr.styZpx 0x40).op = .STY ∧
      (Instr.andImm 0x0F).op = .AND ∧ (Instr.oraZp 0x40).op = .ORA ∧ (Instr.eorAbs 0x3000).op = .EOR ∧
      (Instr.cmpAby 0x3000).op = .CMP ∧ (Instr.cpxImm 0x20).op = .CPX ∧ (Instr.cpyZp 0x40).op = .CPY ∧
      (Instr.bitAbs 0x3000).op = .BIT ∧ (Instr.adcZpx 0x40).op = .ADC ∧ (Instr.sbcIzy 0x60).op = .SBC :=
  ⟨rfl, rfl, rfl, rfl, rfl, rfl, rfl, rfl, rfl, rfl, rfl, rfl, rfl, rfl, rfl⟩

/-- PushesComplete: both pushes, with the byte each stores (95_test_vectors.md F4.2). -/
theorem witness_PushesComplete : Instr.pha = .pha ∧ start.a = 0x81 ∧ Instr.php = .php ∧
    encodeStatus (nvdizc 0b111111) true = 0xFF := by
  decide

/-- CarryAndOverflowMeaning: an ADC and an SBC that answer next. -/
theorem witness_CarryAndOverflowMeaning :
    (∃ t, exec (.adcImm 0x50) start = .next t) ∧ ∃ t, exec (.sbcImm 0xB0) start = .next t := ⟨⟨_, rfl⟩, ⟨_, rfl⟩⟩

/-- IncrementDecrementComplete: the results at the wrap, and the two ends of the mirrored range. -/
theorem witness_IncrementDecrementComplete :
    let s := (start.writeByte 0x40 0xFF).writeByte 0x44 0x00
    (Instr.incZp 0x40).op = .INC ∧ operandOf (.incZp 0x40) s + 1 = 0x00 ∧
      (Instr.decZpx 0x40).op = .DEC ∧ operandOf (.decZpx 0x40) s - 1 = 0xFF ∧
      ((instrRecord (.incAbs 0x1FFF) s).loc = .addr 0x1FFF ∧ operandOf (.incAbs 0x1FFF) s + 1 = 0x01) ∧
      ((instrRecord (.decAbs 0x0800) s).loc = .addr 0x0800 ∧ operandOf (.decAbs 0x0800) s - 1 = 0xFF) := by
  decide

/-- ShiftsComplete: each operation, in accumulator mode and in memory, with the shifted byte and the bit that falls out, and
the two ends of the mirrored range. -/
theorem witness_ShiftsComplete :
    (Instr.aslAcc.op = .ASL ∧ (0x02 : Byte).toNat = 2 * (operandOf .aslAcc start).toNat % 256 ∧
        true = (operandOf .aslAcc start).getLsbD 7 ∧ Instr.aslAcc.mode = .ACC) ∧
      ((Instr.lsrZp 0x40).op = .LSR ∧ (0x3F : Byte).toNat = (operandOf (.lsrZp 0x40) start).toNat / 2 ∧
        true = (operandOf (.lsrZp 0x40) start).getLsbD 0 ∧ (Instr.lsrZp 0x40).mode ≠ .ACC) ∧
      (Instr.rolAcc.op = .ROL ∧
        (0x03 : Byte).toNat = 2 * (operandOf .rolAcc start).toNat % 256 + (if start.flags.c then 1 else 0) ∧
        true = (operandOf .rolAcc start).getLsbD 7) ∧
      ((Instr.rorAbs 0x3000).op = .ROR ∧
        (0xFF : Byte).toNat = (operandOf (.rorAbs 0x3000) start).toNat / 2 + (if start.flags.c then 128 else 0) ∧
        true = (operandOf (.rorAbs 0x3000) start).getLsbD 0) ∧
      ((instrRecord (.aslAbs 0x0800) start).loc = .addr 0x0800 ∧
        (0x00 : Byte).toNat = 2 * (operandOf (.aslAbs 0x0800) start).toNat % 256 ∧
        false = (operandOf (.aslAbs 0x0800) start).getLsbD 7) ∧
      ((instrRecord (.rolAbs 0x1FFF) start).loc = .addr 0x1FFF ∧
        (0x01 : Byte).toNat = 2 * (operandOf (.rolAbs 0x1FFF) start).toNat % 256 + (if start.flags.c then 1 else 0) ∧
        false = (operandOf (.rolAbs 0x1FFF) start).getLsbD 7) := by
  decide

/-- ROL twice on a mirrored address, the bank cell 0x80 and C clear: R251 takes the C the first run wrote, so the second
writes 0x01 and the third the same, with the same flags; with C cleared again the second writes 0x00 as the first did
(43_ref_arith_logic.md R251, R253; log 36). -/
theorem test_rol_repeated_on_mirror :
    (match exec (.rolAbs 0x0900) ((start.writeByte 0x0100 0x80).setC false) with
      | .next t =>
        t.cell 0x0900 == 0x00 && t.cell 0x0100 == 0x80 && t.flags.c &&
          (match exec (.rolAbs 0x0900) t with
            | .next u =>
              u.cell 0x0900 == 0x01 &&
                (match exec (.rolAbs 0x0900) u with
                  | .next w => w.cell 0x0900 == 0x01 && w.flags == u.flags
                  | _ => false)
            | _ => false) &&
          (match exec (.rolAbs 0x0900) (t.setC false) with
            | .next u => u.cell 0x0900 == 0x00 && u.flags == t.flags
            | _ => false)
      | _ => false) = true := by
  decide

/-- JumpAndNopComplete: the pointer at the top under both policies, and elsewhere under the faulting one. -/
theorem witness_JumpAndNopComplete :
    State.reset.cfg.topWrap = .wrap ∧ (0xFFFE : Word) ≠ 0xFFFF ∧ faulting.cfg.topWrap = .fault := by
  decide

/-- SubroutineCallAndReturnComplete, ReturnFollowsCall. -/
theorem witness_ReturnFollowsCall :
    start.cfg.admissible = true ∧ loByte start.cfg.stackBase = 0 ∧
      ∃ t u, exec (.jsr 0x1234) start = .next t ∧ exec .rts t = .next u :=
  ⟨by decide, by decide, _, _, rfl, rfl⟩

/-- ResetOperationEffect: a readable vector, and one at the top under the faulting policy. -/
theorem witness_ResetOperationEffect :
    State.reset.cfg.resetVector ≠ 0xFFFF ∧
      (let c := { faulting with cfg := { faulting.cfg with resetVector := 0xFFFF } }.cfg
       c.resetVector = 0xFFFF ∧ c.topWrap = .fault) := by
  decide

/-- LoadsCopyTheProgram: the longest sequence that fits and the shortest that does not (vectors L5, L6), the longest program
R7 (d) admits, and vectors at the top under both policies. -/
theorem witness_LoadsCopyTheProgram :
    State.reset.cfg.admissible = true ∧
      State.reset.cfg.prgBase.toNat + (List.replicate 32768 (0xEA : Byte)).length ≤ 65536 ∧
      65536 < State.reset.cfg.prgBase.toNat + (List.replicate 32769 (0x00 : Byte)).length ∧
      State.reset.cfg.admitsProgram (List.replicate 32764 (0xEA : Byte)).length = true ∧
      (let c := { faulting with cfg := { faulting.cfg with resetVector := 0xFFFF, testVector := 0xFFFF } }.cfg
       (c.resetVector = 0xFFFF ∧ c.topWrap = .fault) ∧ c.testVector = 0xFFFF ∧ c.topWrap = .fault) ∧
      ¬ (faulting.cfg.resetVector = 0xFFFF ∧ faulting.cfg.topWrap = .fault) ∧
      ¬ (State.reset.cfg.testVector = 0xFFFF ∧ State.reset.cfg.topWrap = .fault) := by
  refine ⟨by decide, ?_, ?_, ?_, by decide, by decide, by decide⟩ <;> rw [List.length_replicate] <;> decide

/-- ResetStateIsPowerOnThenReset: a readable vector under the faulting policy, and one that is not. -/
theorem witness_ResetStateIsPowerOnThenReset :
    (faulting.cfg.resetVector ≠ 0xFFFF ∨ faulting.cfg.topWrap = .wrap) ∧
      (let c : Config := { faulting.cfg with resetVector := 0xFFFF }
       c.resetVector = 0xFFFF ∧ c.topWrap = .fault) := by
  decide

end Sys2Proof.Tests
end

section
/-! What each bit of an encoded status byte is, and the flags SetZN leaves: the obligations on the flags of 10_state.md. -/

namespace Sys2Proof.Machine

/-- A placed bit stands at its place and nowhere else. -/
theorem getLsbD_bitAt (b : Bool) (place k : Nat) :
    (bitAt b place).getLsbD k = (b && decide (k = place) && decide (k < 8)) := by
  cases b with
  | false => simp [bitAt]
  | true =>
    simp only [bitAt, if_true, BitVec.natCast_eq_ofNat, BitVec.getLsbD_ofNat, Nat.one_shiftLeft,
      Nat.testBit_two_pow, Bool.true_and, Bool.and_comm, eq_comm]

/-- Every bit of an encoded status byte is the value the layout places there (10_state.md R34, R35). -/
theorem getLsbD_encodeStatus (f : Flags) (ctx : Bool) (k : Nat) :
    (encodeStatus f ctx).getLsbD k = [f.c, f.z, f.i, f.d, ctx, true, f.v, f.n].getD k false := by
  simp only [encodeStatus, BitVec.getLsbD_or, getLsbD_bitAt]
  by_cases hk : k < 8
  · interval_cases k <;> simp
  · rw [List.getD_eq_default _ _ (by simpa using hk)]
    simp [hk]

/-- Settles O5: each of the eight bits is read off the layout; decoding takes each flag from its bit by definition. -/
theorem statusByteLayout : Obligations.StatusByteLayout := by
  unfold Obligations.StatusByteLayout
  intro f ctx b
  have hencode := getLsbD_encodeStatus f ctx
  exact ⟨⟨hencode 0, hencode 1, hencode 2, hencode 3, hencode 4, hencode 5, hencode 6, hencode 7⟩, rfl⟩

/-- SetZN's flags with Z said as a proposition: the byte is 0 (10_state.md R33). -/
theorem Flags.withZN_eq (f : Flags) (r : Byte) :
    f.withZN r = { f with z := decide (r = 0), n := r.getLsbD 7 } := by
  rw [Flags.withZN, beq_eq_decide]

/-- Settles O7: SetZN writes the flags alone, and of them Z and N alone. -/
theorem setZNRule : Obligations.SetZNRule := by
  unfold Obligations.SetZNRule
  intro s r
  rw [State.setZN_eq, Flags.withZN_eq, State.setFlags]

end Sys2Proof.Machine
end

section
/-! What a byte read and a word write do, cell by cell: the obligations on the memory bus and the stack primitives
of 20_memory.md. -/

namespace Sys2Proof.Machine

/-! ## The byte accesses -/

/-- The cell a read uses: an address below 0x2000 is folded modulo 2048 (20_memory.md R62). -/
theorem toNat_eff (a : Word) : (eff a).toNat = if a.toNat < 0x2000 then a.toNat % 0x800 else a.toNat := by
  simp only [eff, BitVec.lt_def, BitVec.reduceToNat, apply_ite BitVec.toNat, BitVec.toNat_and]
  rw [← Nat.and_two_pow_sub_one_eq_mod a.toNat 11]

/-- Folding modulo 2048 an address below 0x2000 does not change the cell its read uses (20_memory.md R65). -/
theorem eff_ofNat_mod {a : Word} (h : a.toNat < 0x2000) : eff (BitVec.ofNat 16 (a.toNat % 2048)) = eff a := by
  apply BitVec.eq_of_toNat_eq
  have hfold : (BitVec.ofNat 16 (a.toNat % 2048)).toNat = a.toNat % 2048 := by
    rw [BitVec.toNat_ofNat]
    omega
  rw [toNat_eff, toNat_eff, hfold, if_pos (by omega), if_pos h]
  omega

/-- Settles O8: below 0x2000 both sides of the second equation read the same folded cell. -/
theorem readMirror : Obligations.ReadMirror := by
  unfold Obligations.ReadMirror
  intro s a
  refine ⟨fun hlow => ⟨?_, ?_⟩, fun hhigh => ?_⟩
  · have hlt : a < 0x2000 := hlow
    rw [State.readByte, eff, if_pos hlt]
  · rw [State.readByte, State.readByte, eff_ofNat_mod hlow]
  · rw [State.readByte, eff_of_plain (.inr hhigh)]

/-- The form in which `State.cell_writeByte` and `State.cell_push` say what a store does. -/
theorem StoresOnly.of_cell_eq {a : Word} {v : Byte} {s t : State}
    (h : ∀ b, t.cell b = if b = a then v else s.cell b) : StoresOnly a v s t :=
  ⟨by rw [h, if_pos rfl], fun b hb => by rw [h, if_neg hb]⟩

/-- Settles O9: the cells are those of `State.cell_writeByte`; only the field `mem` is written. -/
theorem byteWriteUnmirrored : Obligations.ByteWriteUnmirrored := by
  unfold Obligations.ByteWriteUnmirrored
  exact fun s a v => ⟨.of_cell_eq (s.cell_writeByte a v), rfl⟩

/-- Settles O13: a push is a byte write at the slot of the pointer, and a pop a mirrored read of the slot above it. -/
theorem stackPrimitives : Obligations.StackPrimitives := by
  unfold Obligations.StackPrimitives
  exact fun s v => ⟨⟨.of_cell_eq (s.cell_push v), rfl⟩, s.pop_eq⟩

/-! ## The word accesses -/

/-- Below the top of memory a word read is the two mirrored byte reads (20_memory.md R66). -/
theorem State.readWord_of_ne (s : State) {p : Word} (h : p ≠ 0xFFFF) : s.readWord p = .ok (s.wordAt p) := by
  rw [State.readWord, wordFaults_eq_false (.inr h), if_neg Bool.false_ne_true]

/-- Below the top of memory a word write completes (20_memory.md R67). -/
theorem State.exists_writeWord (s : State) {p : Word} (h : p ≠ 0xFFFF) (w : Word) : ∃ t, s.writeWord p w = .ok t := by
  rw [State.writeWord, wordFaults_eq_false (.inr h), if_neg Bool.false_ne_true]
  exact ⟨_, rfl⟩

/-- Every cell after a word write, which uses no mirror (20_memory.md R67). -/
theorem State.cell_of_writeWord {s t : State} {p w : Word} (h : s.writeWord p w = .ok t) (b : Word) :
    t.cell b = if b = p + 1 then hiByte w else if b = p then loByte w else s.cell b := by
  rw [State.writeWord_ok h, State.cell_writeByte, State.cell_writeByte]

/-- A word write puts the low byte at its position and the high byte in the next cell (20_memory.md R90). -/
theorem State.placed_of_writeWord {s t : State} {p w : Word} (h : s.writeWord p w = .ok t) :
    t.cell p = loByte w ∧ t.cell (p + 1) = hiByte w := by
  have hnext : p ≠ p + 1 := by bv_omega
  exact ⟨by rw [State.cell_of_writeWord h, if_neg hnext, if_pos rfl], by rw [State.cell_of_writeWord h, if_pos rfl]⟩

/-- Where reads of both positions use their own cells, reading a written word returns it (20_memory.md R90). -/
theorem State.wordAt_of_writeWord {s t : State} {p w : Word} (h : s.writeWord p w = .ok t)
    (hlo : eff p = p) (hhi : eff (p + 1) = p + 1) : t.wordAt p = w := by
  obtain ⟨hcellLo, hcellHi⟩ := State.placed_of_writeWord h
  rw [State.wordAt, State.readByte, State.readByte, hlo, hhi, hcellLo, hcellHi, mkWord_loByte_hiByte]

/-- From 0x07FF to 0x1FFF one of a word's two positions is read from a cell that its write does not reach: the second at
0x07FF, the first above it (20_memory.md R90, C1). -/
theorem exists_eff_not_written {p : Word} (hmin : 0x07FF ≤ p.toNat) (hmax : p.toNat ≤ 0x1FFF) :
    ∃ q, (q = p ∨ q = p + 1) ∧ eff q ≠ p ∧ eff q ≠ p + 1 := by
  have hsucc : (p + 1).toNat = p.toNat + 1 := by bv_omega
  have hlo := toNat_eff p
  have hhi := toNat_eff (p + 1)
  rw [if_pos (by omega)] at hlo
  rcases hmin.eq_or_lt with hedge | hinside
  · rw [if_pos (by omega)] at hhi
    exact ⟨p + 1, .inr rfl, fun e => by rw [e] at hhi; omega, fun e => by rw [e] at hhi; omega⟩
  · exact ⟨p, .inl rfl, fun e => by rw [e] at hlo; omega, fun e => by rw [e] at hlo; omega⟩

/-- A word write on the reset machine, whose cells are all 0, is not read back from those positions (20_memory.md R90,
C1). -/
theorem wordAt_ne_of_writeWord_reset {t : State} {p : Word} (hmin : 0x07FF ≤ p.toNat) (hmax : p.toNat ≤ 0x1FFF)
    (h : State.reset.writeWord p (mkWord 1 1) = .ok t) : t.wordAt p ≠ mkWord 1 1 := by
  intro hback
  obtain ⟨q, hq, hne, hneSucc⟩ := exists_eff_not_written hmin hmax
  have hzero : t.readByte q = 0 := by
    rw [State.readByte, State.cell_of_writeWord h, if_neg hneSucc, if_neg hne]
    rfl
  have hone : t.readByte q = 1 := by
    rcases hq with rfl | rfl
    · simpa [State.wordAt] using congrArg loByte hback
    · simpa [State.wordAt] using congrArg hiByte hback
  exact absurd (hzero.symm.trans hone) (by decide)

/-- Settles O11: writes are unmirrored, so the placement holds everywhere; the word is read back where both reads are
direct, and the word 0x0101 written on the reset machine is lost where one of them is folded away. -/
theorem wordRoundTrip : Obligations.WordRoundTrip := by
  unfold Obligations.WordRoundTrip
  intro p hp
  constructor
  · intro s w
    obtain ⟨t, ht⟩ := s.exists_writeWord hp w
    obtain ⟨hlo, hhi⟩ := State.placed_of_writeWord ht
    refine ⟨t, ht, hlo, hhi, fun hplain => ?_⟩
    have heffLo : eff p = p := eff_of_plain (by bv_omega)
    have heffHi : eff (p + 1) = p + 1 := eff_of_plain (by bv_omega)
    rw [t.readWord_of_ne hp, State.wordAt_of_writeWord ht heffLo heffHi]
  · intro hmin hmax
    obtain ⟨t, ht⟩ := State.reset.exists_writeWord hp (mkWord 1 1)
    refine ⟨State.reset, t, mkWord 1 1, ht, fun hread => ?_⟩
    rw [t.readWord_of_ne hp] at hread
    exact wordAt_ne_of_writeWord_reset hmin hmax ht (Except.ok.inj hread)

end Sys2Proof.Machine
end

section
/-! What the decoder answers for each form an opcode byte announces, in both directions: the obligations on encoding
and decoding (30_encoding.md). -/

namespace Sys2Proof

/-! ## The decoder, one equation for each form -/

theorem decode_of_f1 {opc : Byte} {i : Instr} (h : decodeOpcode opc = some (.f1 i)) (rest : List Byte) :
    decode (opc :: rest) = .ok (i, rest) := by
  simp only [decode, h]

theorem decode_of_f2 {opc : Byte} {f : Byte → Instr} (h : decodeOpcode opc = some (.f2 f)) (b : Byte)
    (rest : List Byte) : decode (opc :: b :: rest) = .ok (f b, rest) := by
  simp only [decode, h]

theorem decode_of_f3 {opc : Byte} {f : Word → Instr} (h : decodeOpcode opc = some (.f3 f)) (lo hi : Byte)
    (rest : List Byte) : decode (opc :: lo :: hi :: rest) = .ok (f (mkWord lo hi), rest) := by
  simp only [decode, h]

/-- All the decoder can do when it succeeds: the opcode byte announces a form, and the bytes of that form's operand
stand between it and what is left. -/
theorem decode_ok_cases {bytes rest : List Byte} {i : Instr} (h : decode bytes = .ok (i, rest)) :
    ∃ opc, (decodeOpcode opc = some (.f1 i) ∧ bytes = opc :: rest) ∨
      (∃ f b, decodeOpcode opc = some (.f2 f) ∧ i = f b ∧ bytes = opc :: b :: rest) ∨
      (∃ f lo hi, decodeOpcode opc = some (.f3 f) ∧ i = f (mkWord lo hi) ∧ bytes = opc :: lo :: hi :: rest) := by
  cases bytes with
  | nil => cases h
  | cons opc tail =>
    refine ⟨opc, ?_⟩
    cases hd : decodeOpcode opc with
    | none => simp [decode, hd] at h
    | some form =>
      cases form with
      | f1 j => simp_all [decode]
      | f2 f =>
        cases tail with
        | nil => simp [decode, hd] at h
        | cons b tail => simp_all [decode, eq_comm]
      | f3 f =>
        match tail with
        | [] => simp [decode, hd] at h
        | [_] => simp [decode, hd] at h
        | lo :: hi :: tail => simp_all [decode, eq_comm]

/-- The decoder reports an illegal opcode exactly for a byte the matrix does not name (30_encoding.md R113). -/
theorem decode_illegalOpcode_iff (opc : Byte) (rest : List Byte) :
    decode (opc :: rest) = .error (.illegalOpcode opc) ↔ (decodeOpcode opc).isNone = true := by
  rw [Option.isNone_iff_eq_none]
  constructor
  · intro h
    cases hd : decodeOpcode opc with
    | none => rfl
    | some form =>
      cases form <;> rcases rest with _ | ⟨b, _ | ⟨b', rest⟩⟩ <;> simp [decode, hd] at h
  · intro hd
    simp only [decode, hd]

/-! ## The obligations -/

/-- Settles O2: the opcode byte announces the form of the operand, and a word is its two bytes put together. -/
theorem decodeOfEncode : Obligations.DecodeOfEncode := by
  unfold Obligations.DecodeOfEncode
  intro i rest
  have hform := decodeOpcode_opcode i
  unfold encode
  cases ho : i.operand with
  | none =>
    simp only [ho] at hform
    exact decode_of_f1 hform rest
  | byte b =>
    simp only [ho] at hform
    obtain ⟨f, hd, hi⟩ := hform
    rw [← hi]
    exact decode_of_f2 (by rw [hi]; exact hd) b rest
  | word w =>
    simp only [ho] at hform
    obtain ⟨f, hd, hi⟩ := hform
    have hword := decode_of_f3 hd (loByte w) (hiByte w) rest
    rwa [mkWord_loByte_hiByte, hi] at hword

/-- Settles O3: each way of decoding gives an instruction with that opcode byte and those operand bytes. -/
theorem encodeOfDecode : Obligations.EncodeOfDecode := by
  unfold Obligations.EncodeOfDecode
  intro bytes i rest h
  obtain ⟨opc, ⟨hd, rfl⟩ | ⟨f, b, hd, rfl, rfl⟩ | ⟨f, lo, hi, hd, rfl, rfl⟩⟩ := decode_ok_cases h
  · obtain ⟨hopc, hoperand⟩ := heads_of_decodeOpcode hd
    simp [encode, Operand.bytes, hopc, hoperand]
  · obtain ⟨hopc, hoperand⟩ := heads_of_decodeOpcode hd b
    simp [encode, Operand.bytes, hopc, hoperand]
  · obtain ⟨hopc, hoperand⟩ := heads_of_decodeOpcode hd (mkWord lo hi)
    simp [encode, Operand.bytes, hopc, hoperand]

/-- Settles O1: each sample is the encoding of its instruction, byte for byte, and decoding undoes encoding. -/
theorem sampleWordsDecode : Obligations.SampleWordsDecode := by
  unfold Obligations.SampleWordsDecode
  exact ⟨decodeOfEncode .brk [], decodeOfEncode (.ldaImm 0x01) [], decodeOfEncode (.staAbx 0x30FE) [],
    decodeOfEncode .tsx [], decodeOfEncode (.adcIzy 0x60) [], decodeOfEncode .rorAcc [],
    decodeOfEncode (.cmpIzx 0x70) [], decodeOfEncode (.jmpInd 0x30FF) [], decodeOfEncode (.bne 0xFB) [],
    decodeOfEncode .plp [], decodeOfEncode .sed []⟩

/-- Settles O4: the bytes the matrix does not name, found by reading all 256 entries of it. -/
theorem illegalOpcodesAreTheListed : Obligations.IllegalOpcodesAreTheListed := by
  unfold Obligations.IllegalOpcodesAreTheListed
  intro opc rest
  rw [decode_illegalOpcode_iff]
  revert opc
  decide

end Sys2Proof
end

section
/-! The reference handlers are the programs of Machine/ReferencePrograms.lean, so they succeed and stay in their reach
(41_engine_step.md R178, R179). -/

namespace Sys2Proof.Machine

/-! ## The byte computations as the spec writes them -/

/-- The sum as the spec writes it: the result reduced modulo 256, the overflow as a proposition (43_ref_arith_logic.md
R234). -/
theorem addWithCarry_eq (a m : Byte) (c : Bool) :
    addWithCarry a m c =
      let n := a.toNat + m.toNat + c.toNat
      let r := BitVec.ofNat 8 (n % 256)
      ⟨r, decide (n > 255), decide ((a ^^^ r) &&& (m ^^^ r) &&& 0x80 ≠ 0)⟩ := by
  have hmod (n : Nat) : BitVec.ofNat 8 (n % 256) = BitVec.ofNat 8 n := BitVec.eq_of_toNat_eq (by simp)
  have hne (v : Byte) : (v != 0) = decide (v ≠ 0) := by simp [bne, beq_eq_decide]
  simp only [addWithCarry, hmod, hne, gt_iff_lt]

/-- ASL doubles the byte (43_ref_arith_logic.md R249). -/
theorem toNat_shiftLeft (v : Byte) (c : Bool) : (shiftLeft v c).result.toNat = v.toNat * 2 % 256 := by
  simp [shiftLeft, Nat.shiftLeft_eq]

/-- LSR halves the byte (43_ref_arith_logic.md R250). -/
theorem toNat_shiftRight (v : Byte) (c : Bool) : (shiftRight v c).result.toNat = v.toNat / 2 := by
  simp [shiftRight, Nat.shiftRight_eq_div_pow]

/-- ROL doubles the byte and adds the old carry (43_ref_arith_logic.md R251). -/
theorem toNat_rotateLeft (v : Byte) (c : Bool) : (rotateLeft v c).result.toNat = v.toNat * 2 % 256 + c.toNat := by
  have hor : (v <<< 1 ||| bitAt c 0 : Byte) = v <<< 1 + bitAt c 0 :=
    (BitVec.add_eq_or_of_and_eq_zero _ _ (by cases c <;> ext k hk <;> interval_cases k <;> simp [bitAt])).symm
  rw [rotateLeft, hor]
  cases c with
  | false => simp [bitAt, Nat.shiftLeft_eq]
  | true =>
    simp [bitAt, Nat.shiftLeft_eq]
    omega

/-- ROR halves the byte and adds the old carry at bit 7 (43_ref_arith_logic.md R252). -/
theorem toNat_rotateRight (v : Byte) (c : Bool) : (rotateRight v c).result.toNat = v.toNat / 2 + 128 * c.toNat := by
  have hor : (v >>> 1 ||| bitAt c 7 : Byte) = v >>> 1 + bitAt c 7 :=
    (BitVec.add_eq_or_of_and_eq_zero _ _ (by cases c <;> ext k hk <;> interval_cases k <;> simp [bitAt])).symm
  rw [rotateRight, hor]
  have := v.isLt
  cases c with
  | false => simp [bitAt, Nat.shiftRight_eq_div_pow]
  | true =>
    simp [bitAt, Nat.shiftRight_eq_div_pow]
    omega

/-! ## The shared bodies as programs -/

/-- ADC and SBC's common body (43_ref_arith_logic.md R234, R235). -/
theorem run_addProgram (m : Byte) (ins : InstrRecord) (s : State) : (addProgram m).run ins s = .ok (s.addToA m) := by
  rw [State.addToA_eq, addWithCarry_eq]
  rfl

/-- An operand write leaves the flags out of account (41_engine_step.md R177). -/
theorem operandWrite_setFlags (ins : InstrRecord) (v : Byte) (s : State) (f : Flags) :
    operandWrite ins v (s.setFlags f) = (operandWrite ins v s).setFlags f := by
  unfold operandWrite
  split <;> rfl

@[simp] theorem operandWrite_flags (ins : InstrRecord) (v : Byte) (s : State) :
    (operandWrite ins v s).flags = s.flags := by
  unfold operandWrite
  split <;> rfl

/-- The shifts and rotates, whose programs write C before the operand (43_ref_arith_logic.md R249 to R252). -/
theorem run_shiftProgram {result : Byte → Bool → Byte} {out : Byte → Bool} {shift : Byte → Bool → Shifted}
    (h : ∀ v c, shift v c = ⟨result v c, out v⟩) (ins : InstrRecord) (s : State) :
    (shiftProgram result out).run ins s = .ok (shiftOperand shift ins s) := by
  simp only [shiftProgram, shiftOperand, HandlerProgram.run, HandlerProgram.setC, HandlerProgram.setZN, State.setC_eq,
    State.setZN_eq, h, operandWrite_setFlags, operandWrite_flags]

/-- The jumps: without an address PC is written as it is (44_ref_control_flow.md R271; log 25). -/
theorem run_jumpProgram (ins : InstrRecord) (s : State) :
    (jumpProgram ins).run ins s = .ok (s.setPC (jumpTarget ins s)) := by
  obtain ⟨_, _, _, _, loc, _, _, _⟩ := ins
  cases loc <;> rfl

/-- JSR pushes, then jumps (44_ref_control_flow.md R272). -/
theorem handleJSR_eq_run (ins : InstrRecord) (s : State) :
    handleJSR ins s = (jumpProgram ins).run ins (s.push16 (s.pc - 1)) := by
  rw [run_jumpProgram]
  unfold handleJSR jumpTarget
  split <;> rfl

/-- The branches (44_ref_control_flow.md R270). -/
theorem run_branchProgram (cond : Flags → Bool) (ins : InstrRecord) (s : State) :
    (branchProgram cond ins).run ins s = .ok (branch (cond s.flags) ins s) := by
  simp only [branchProgram, branch, HandlerProgram.run]
  split <;> rfl

/-- A shifted byte is determined by what it is as a natural and by the bit that falls out. -/
theorem Shifted.eq_of_toNat {r : Shifted} {n : Nat} {out : Bool} (hr : r.result.toNat = n) (ho : r.out = out) :
    r = ⟨BitVec.ofNat 8 n, out⟩ := by
  rw [← hr, ← ho, BitVec.ofNat_toNat, BitVec.setWidth_eq]

/-! ## The obligation -/

/-- Each reference handler does what its program does (log 37). -/
theorem handlerOf_eq_run {op : Op} {h : Handler} (hop : handlerOf op = some h) :
    ∃ p, programOf op = some p ∧ ∀ (ins : InstrRecord) (s : State), h ins s = (p ins).run ins s := by
  cases op <;> cases hop
  case ADC | SBC => exact ⟨_, rfl, fun ins s => (run_addProgram _ ins s).symm⟩
  case ASL =>
    exact ⟨_, rfl, fun ins s =>
      (run_shiftProgram (fun v c => Shifted.eq_of_toNat (toNat_shiftLeft v c) rfl) ins s).symm⟩
  case LSR =>
    exact ⟨_, rfl, fun ins s =>
      (run_shiftProgram (fun v c => Shifted.eq_of_toNat (toNat_shiftRight v c) rfl) ins s).symm⟩
  case ROL =>
    exact ⟨_, rfl, fun ins s =>
      (run_shiftProgram (fun v c => Shifted.eq_of_toNat (toNat_rotateLeft v c) rfl) ins s).symm⟩
  case ROR =>
    exact ⟨_, rfl, fun ins s =>
      (run_shiftProgram (fun v c => Shifted.eq_of_toNat (toNat_rotateRight v c) rfl) ins s).symm⟩
  case JMP => exact ⟨_, rfl, fun ins s => (run_jumpProgram ins s).symm⟩
  case JSR => exact ⟨_, rfl, handleJSR_eq_run⟩
  case BCC | BCS | BEQ | BNE | BMI | BPL | BVC | BVS =>
    exact ⟨_, rfl, fun ins s => by rw [run_branchProgram]; rfl⟩
  all_goals exact ⟨_, rfl, fun _ _ => rfl⟩

theorem handlerOf_inReach {op : Op} {h : Handler} (hop : handlerOf op = some h) : h.InReach := by
  obtain ⟨p, -, hp⟩ := handlerOf_eq_run hop
  exact ⟨p, hp⟩

/-- No reference handler reports a failure (41_engine_step.md R179). -/
theorem handlerOf_succeeds {op : Op} {h : Handler} (hop : handlerOf op = some h) (ins : InstrRecord) (s : State) :
    ∃ t, h ins s = .ok t := by
  cases op <;> cases hop <;> exact ⟨_, rfl⟩

/-- What a reference handler leaves alone. -/
theorem handlerOf_untouched {op : Op} {h : Handler} {ins : InstrRecord} {s t : State} (hop : handlerOf op = some h)
    (ht : h ins s = .ok t) : Untouched s t := by
  have hu := (handlerOf_inReach hop).untouched ins s
  rwa [ht] at hu

/-- Every row of the reference table is well formed: at least one cycle, an extra cycle only where an index can cross a
page (00_scope.md R7 (e), 30_encoding.md R112). -/
theorem entry_wellFormed (i : Instr) : i.entry.wellFormed = true := by
  cases i <;> rfl

theorem one_le_cyc (i : Instr) : 1 ≤ i.entry.cyc := by
  have h := entry_wellFormed i
  simp only [Entry.wellFormed, Bool.and_eq_true, decide_eq_true_eq] at h
  exact h.1

/-- Every row of the reference table is the entry of an instruction (30_encoding.md R112). -/
theorem exists_entry_of_optable {opc : Byte} {e : Entry} (h : optable opc = some e) : ∃ i : Instr, i.entry = e := by
  unfold optable at h
  obtain ⟨i, -, hi⟩ := Option.map_eq_some_iff.1 h
  exact ⟨i, hi⟩

/-- The reference table and handlers meet the constraints on the engine's inputs. -/
theorem ref_wellFormed : EngineInputs.ref.WellFormed where
  cycles opc e h := by
    obtain ⟨i, rfl⟩ := exists_entry_of_optable h
    exact one_le_cyc i
  reach _ _ h := handlerOf_inReach h

/-- Settles O31: each handler is the run of its program, and what a program leaves alone is known. -/
theorem handlersSucceedInReach : Obligations.HandlersSucceedInReach := by
  unfold Obligations.HandlersSucceedInReach
  refine ⟨fun op h ins s hop => ?_, fun op h hop => handlerOf_eq_run hop, ref_wellFormed⟩
  obtain ⟨t, ht⟩ := handlerOf_succeeds hop ins s
  obtain ⟨hes, hpending, hlast, hcfg, -⟩ := handlerOf_untouched hop ht
  exact ⟨t, ht, hes, hpending, hlast, hcfg⟩

end Sys2Proof.Machine
end

section
/-! The engine step, outcome by outcome, and the machine's step as the engine step with the reference table and
handlers: the obligations on one step (41_engine_step.md R160 to R183). -/

namespace Sys2Proof.Machine

/-! ## The engine step over any inputs, by what decoding and dispatch give -/

section Lines
variable {w : EngineInputs} {s : State} {ins : InstrRecord}

/-- A fault in lines 1 and 2 leaves the state as it was (41_engine_step.md R170). -/
theorem engineLines_of_decode_error {f : Fault} (hd : decodeRecord w.optable s = .error f) :
    engineLines w s = .error ⟨f, s⟩ := by
  simp only [engineLines, hd]

/-- The break halts (41_engine_step.md R171). -/
theorem engineLines_of_break (hd : decodeRecord w.optable s = .ok ins) (hop : ins.op = .BRK) :
    engineLines w s = .ok ((s.setLast (some ins)).setStatus .halted) := by
  simp only [engineLines, hd, executeRecord, hop, if_true]

/-- An identity without a handler faults at dispatch (41_engine_step.md R180). -/
theorem engineLines_of_no_handler (hd : decodeRecord w.optable s = .ok ins) (hop : ins.op ≠ .BRK)
    (hh : w.handlers ins.op = none) :
    engineLines w s = .error ⟨.dispatch ins.op, (s.setLast (some ins)).advance ins.len⟩ := by
  simp only [engineLines, hd, executeRecord, hop, if_false, hh]

/-- A handler's failure is the step's (41_engine_step.md R179). -/
theorem engineLines_of_failure {h : Handler} {f : Failure} (hd : decodeRecord w.optable s = .ok ins)
    (hop : ins.op ≠ .BRK) (hh : w.handlers ins.op = some h)
    (hf : h ins ((s.setLast (some ins)).advance ins.len) = .error f) : engineLines w s = .error f := by
  simp only [engineLines, hd, executeRecord, hop, if_false, hh, hf]

/-- A handler that succeeds has its cycles charged (41_engine_step.md R181). -/
theorem engineLines_of_success {h : Handler} {u : State} (hd : decodeRecord w.optable s = .ok ins)
    (hop : ins.op ≠ .BRK) (hh : w.handlers ins.op = some h)
    (hu : h ins ((s.setLast (some ins)).advance ins.len) = .ok u) : engineLines w s = .ok (u.charge ins) := by
  simp only [engineLines, hd, executeRecord, hop, if_false, hh, hu]

theorem engineStep_of_error {f : Failure} (h : engineLines w s = .error f) :
    engineStep w s = .fault f.fault ∧ stateAtFault w s = some f.state := by
  simp only [engineStep, stateAtFault, h, and_self]

theorem engineStep_of_ok {t : State} (h : engineLines w s = .ok t) : engineStep w s = .next t := by
  simp only [engineStep, h]

/-- The engine step runs the handler of the decoded identity (41_engine_step.md R174). -/
theorem engineStep_of_handler {h : Handler} (hd : decodeRecord w.optable s = .ok ins) (hop : ins.op ≠ .BRK)
    (hh : w.handlers ins.op = some h) :
    engineStep w s = runHandler h ins ((s.setLast (some ins)).advance ins.len) := by
  unfold runHandler
  cases hr : h ins ((s.setLast (some ins)).advance ins.len) with
  | error f => exact (engineStep_of_error (engineLines_of_failure hd hop hh hr)).1
  | ok u => exact engineStep_of_ok (engineLines_of_success hd hop hh hr)

end Lines

/-- The event of an iteration that decodes, on an engine that executes (41_engine_step.md R172). -/
theorem hookEvent_of_decode {w : EngineInputs} {s : State} {ins : InstrRecord} (hes : s.es ≠ .halted)
    (hpc : s.pc ≠ s.cfg.breakSentinel) (hd : decodeRecord w.optable s = .ok ins) :
    hookEvent w s = some (hook s ins) := by
  rw [hookEvent, if_neg (not_or.2 ⟨hes, hpc⟩)]
  simp only [hd]

/-- An opcode byte with no entry does not decode (41_engine_step.md R170). -/
theorem decodeRecord_of_no_entry {table : Byte → Option Entry} {s : State} (h : table (s.readByte s.pc) = none) :
    decodeRecord table s = .error (.decode (s.readByte s.pc)) := by
  simp only [decodeRecord, h]

/-! ## Fetching and decoding an instruction, and decoding its record -/

/-- All `fetchDecode` can do when it faults (60_exceptions.md R335). -/
theorem fetchDecode_error {s : State} {f : Fault} (h : fetchDecode s = .error f) :
    f = .decode (s.readByte s.pc) ∧ optable (s.readByte s.pc) = none ∨
      f = .memory (s.pc + 1) ∧ wordFaults s.cfg (s.pc + 1) = true ∧
        ∃ i : Instr, i.len = 3 ∧
          decodeBytes (s.readByte s.pc) (s.readByte (s.pc + 1)) (s.readByte (s.pc + 2)) = some i := by
  unfold fetchDecode at h
  simp only at h
  split at h
  · next hn => cases h; exact .inl ⟨rfl, (optable_eq_none_iff _ _ _).2 hn⟩
  · next i hi =>
    split at h
    · next hw =>
      simp only [Bool.and_eq_true, beq_iff_eq] at hw
      cases h
      exact .inr ⟨rfl, hw.2, i, hw.1, hi⟩
    · cases h

/-- Resolution of the bytes at PC, where they decode. -/
theorem resolve_of_decodeBytes {s : State} {i : Instr}
    (hd : decodeBytes (s.readByte s.pc) (s.readByte (s.pc + 1)) (s.readByte (s.pc + 2)) = some i) :
    resolve i.entry.mode s.pc s =
      if i.len == 3 && wordFaults s.cfg (s.pc + 1) then .error (.memory (s.pc + 1))
      else (resolutionFault i.mode i.arg s).elim
        (.ok ⟨(resolveLoc i.mode i.arg s).1, i.arg, i.len, (resolveLoc i.mode i.arg s).2⟩) .error := by
  have harg := operandArg_of_decodeBytes hd
  unfold resolve Instr.len Instr.mode at *
  cases hw : (i.entry.mode.len == 3 && wordFaults s.cfg (s.pc + 1)) with
  | true =>
    rw [hw, if_pos rfl] at harg
    simp only [harg, if_true]
  | false =>
    rw [hw, if_neg Bool.false_ne_true] at harg
    simp only [harg, Bool.false_eq_true, if_false]
    cases resolutionFault i.entry.mode i.arg s <;> rfl

/-- Where fetching faults, decoding the record faults alike. -/
theorem decodeRecord_of_fetchDecode_error {s : State} {f : Fault} (h : fetchDecode s = .error f) :
    decodeRecord optable s = .error f := by
  rcases fetchDecode_error h with ⟨rfl, hn⟩ | ⟨rfl, hw, i, hlen, hi⟩
  · exact decodeRecord_of_no_entry hn
  · simp only [decodeRecord, optable_of_decodeBytes hi, resolve_of_decodeBytes hi, hlen, hw, BEq.rfl, Bool.and_self,
      if_true]

/-- Where an instruction is fetched, decoding the record gives the instruction's, or the fault of its resolution. -/
theorem decodeRecord_of_fetchDecode {s : State} {i : Instr} (h : fetchDecode s = .ok i) :
    decodeRecord optable s = (resolutionFault i.mode i.arg s).elim (.ok (instrRecord i s)) .error := by
  obtain ⟨hi, hw⟩ := fetchDecode_ok h
  simp only [decodeRecord, optable_of_decodeBytes hi, resolve_of_decodeBytes hi, hw]
  cases resolutionFault i.mode i.arg s <;> rfl

/-! ## The machine's step is the engine step -/

/-- Break is the one operation of an instruction without a handler (41_engine_step.md R175). -/
theorem handlerOf_eq_none_iff (i : Instr) : handlerOf i.op = none ↔ i.op = .BRK := by
  rw [handlerOf_eq_none]
  exact ⟨fun h => h.resolve_right fun ⟨n, hn⟩ => op_ne_other i n hn, .inl⟩

/-- An instruction is break or has a handler. -/
theorem break_or_handler (i : Instr) : i.op = .BRK ∨ i.op ≠ .BRK ∧ ∃ h, handlerOf i.op = some h := by
  by_cases hop : i.op = .BRK
  · exact .inl hop
  · exact .inr ⟨hop, Option.ne_none_iff_exists'.1 (mt (handlerOf_eq_none_iff i).1 hop)⟩

theorem exec_of_break {i : Instr} (hop : i.op = .BRK) (s : State) : exec i s = haltOnBreak i s := by
  rw [exec_eq, (handlerOf_eq_none_iff i).2 hop]

/-- Where the pointer read faults, the instruction faults (40_addressing_modes.md R146). -/
theorem perform_of_resolutionFault {i : Instr} {s : State} {f : Fault} {h : Handler}
    (hf : resolutionFault i.mode i.arg s = some f) : perform i h s = .fault f := by
  unfold perform
  rw [hf]

/-- Executing a fetched instruction is the engine step that decodes its record. -/
theorem exec_eq_engineStep {s : State} {i : Instr} (h : fetchDecode s = .ok i) : exec i s = engineStep .ref s := by
  have hd := decodeRecord_of_fetchDecode h
  rcases break_or_handler i with hop | ⟨hop, hd', hh⟩
  · have hm : i.mode ≠ .IND := mode_ne_ind (by rw [hop]; decide)
    rw [resolutionFault_of_ne_ind hm] at hd
    rw [exec_of_break hop, engineStep_of_ok (engineLines_of_break hd hop)]
    rfl
  · rw [exec_of_handler hh]
    cases hf : resolutionFault i.mode i.arg s with
    | some f =>
      rw [hf] at hd
      rw [perform_of_resolutionFault hf]
      exact (engineStep_of_error (engineLines_of_decode_error hd)).1.symm
    | none =>
      rw [hf] at hd
      rw [engineStep_of_handler hd hop hh, perform, hf]

theorem fetchExecute_eq_engineStep (s : State) : fetchExecute s = engineStep .ref s := by
  unfold fetchExecute
  cases h : fetchDecode s with
  | error f => exact (engineStep_of_error (engineLines_of_decode_error (decodeRecord_of_fetchDecode_error h))).1.symm
  | ok i => exact exec_eq_engineStep h

/-- Settles O24: both iterations test the status and the sentinel alike, and then the two engine steps agree. -/
theorem stepIsEngineStep : Obligations.StepIsEngineStep := by
  unfold Obligations.StepIsEngineStep
  intro s
  unfold step runIteration loopIteration
  cases s.es <;> simp only [fetchExecute_eq_engineStep]

/-- What a step executes on: the engine running, the counter spent (41_engine_step.md R183). -/
theorem step_of_executes {s : State} (hes : s.es ≠ .halted) (hpc : s.pc ≠ s.cfg.breakSentinel) :
    step s = fetchExecute (s.setStatus .running).spend := by
  rcases step_cases s with ⟨h, -⟩ | ⟨-, h, -⟩ | ⟨-, -, h⟩
  · exact absurd h hes
  · exact absurd h hpc
  · exact h

/-- Settles O19: the three bytes decode alike as a list and as the fetch takes them. -/
theorem stepRunsDecodedInstruction : Obligations.StepRunsDecodedInstruction := by
  unfold Obligations.StepRunsDecodedInstruction
  intro s i rest hes hpc hdec hw
  have hi := decode_three (s.readByte s.pc) (s.readByte (s.pc + 1)) (s.readByte (s.pc + 2))
  rw [hdec] at hi
  have hfetch : fetchDecode (s.setStatus .running).spend = .ok i := by
    rw [fetchDecode_spend]
    exact fetchDecode_of_decodeBytes hi.symm hw
  rw [step_of_executes hes hpc, fetchExecute, hfetch]
  rfl

/-- Settles O20: without an entry line 1 faults, before any write. -/
theorem illegalOpcodeFaults : Obligations.IllegalOpcodeFaults := by
  unfold Obligations.IllegalOpcodeFaults
  have hengine (w : EngineInputs) (s : State) (hn : w.optable (s.readByte s.pc) = none) :=
    engineStep_of_error (engineLines_of_decode_error (w := w) (decodeRecord_of_no_entry hn))
  constructor
  · intro s hes hpc hn
    rw [step_of_executes hes hpc, fetchExecute_eq_engineStep]
    exact (hengine .ref (s.setStatus .running).spend hn).1
  · intro w s hn
    obtain ⟨hstep, hstate⟩ := hengine w s hn
    refine ⟨hstep, ?_, hstate⟩
    simp only [hookEvent, decodeRecord_of_no_entry hn, ite_self]

/-! ## Break, and handlers that are missing or fail -/

/-- Break has one row (30_encoding.md R112). -/
theorem eq_brk_of_op {i : Instr} (h : i.op = .BRK) : i = .brk := by
  cases i <;> first | rfl | cases h

/-- A byte that the reference table maps to break resolves, in implied mode (30_encoding.md R112). -/
theorem decodeRecord_of_optable_break {s : State} (h : (optable (s.readByte s.pc)).map Entry.op = some .BRK) :
    ∃ ins, ins.op = .BRK ∧ decodeRecord optable s = .ok ins := by
  obtain ⟨e, he, hop⟩ := Option.map_eq_some_iff.1 h
  obtain ⟨i, rfl⟩ := exists_entry_of_optable he
  have hi := eq_brk_of_op hop
  subst hi
  exact ⟨_, hop, decodeRecord_of_resolve he rfl⟩

/-- Settles O22: the break test comes before every write but that of `last`. -/
theorem breakOnlyHalts : Obligations.BreakOnlyHalts := by
  unfold Obligations.BreakOnlyHalts
  refine ⟨fun s hes hpc hop => ?_, fun s => rfl, fun w s e r he hop hr => ?_⟩
  · obtain ⟨ins, hins, hd⟩ := decodeRecord_of_optable_break hop
    refine ⟨ins, hins, hookEvent_of_decode (w := .ref) hes hpc hd, ?_⟩
    rw [step_of_executes hes hpc, fetchExecute_eq_engineStep]
    have hd' : decodeRecord optable (s.setStatus .running).spend = .ok ins := by rw [decodeRecord_spend, hd]
    exact engineStep_of_ok (engineLines_of_break (w := .ref) hd' hins)
  · have hd := decodeRecord_of_resolve he hr
    exact ⟨engineStep_of_ok (engineLines_of_break hd hop), fun hes hpc => hookEvent_of_decode hes hpc hd⟩

/-- The reference map has a handler for every identity of the reference set but break (41_engine_step.md R175). -/
theorem exists_handlerOf {op : Op} (hb : op ≠ .BRK) (ho : ∀ n, op ≠ .other n) : ∃ h, handlerOf op = some h :=
  Option.ne_none_iff_exists'.1 fun hn => ((handlerOf_eq_none op).1 hn).elim hb fun ⟨n, hn⟩ => ho n hn

/-- Settles O23: what stands at the fault is where the handler started or what it left, and a program's reach says
what it can have changed. -/
theorem missingOrFailingHandlerFaults : Obligations.MissingOrFailingHandlerFaults := by
  unfold Obligations.MissingOrFailingHandlerFaults
  refine ⟨fun w s e r he hop hr => ⟨fun hn => ?_, fun h f u hh hf => ?_⟩, fun opc e he hop => ?_,
    fun op => exists_handlerOf⟩
  · exact engineStep_of_error (engineLines_of_no_handler (decodeRecord_of_resolve he hr) hop hn)
  · have hd := decodeRecord_of_resolve he hr
    have hf : h (mkRecord e r) ((s.setLast (some (mkRecord e r))).advance r.len) = .error ⟨f, u⟩ := hf
    obtain ⟨hstep, hstate⟩ := engineStep_of_error (engineLines_of_failure hd hop hh hf)
    refine ⟨hstep, hstate, fun hreach => ?_, fun p hp hrun => ?_⟩
    · have hlast := (hreach.untouched (mkRecord e r) ((s.setLast (some (mkRecord e r))).advance r.len)).last
      rwa [hf] at hlast
    · have hrun : p.run (mkRecord e r) ((s.setLast (some (mkRecord e r))).advance r.len) = .error ⟨f, u⟩ :=
        hrun.symm.trans hf
      have hpc := p.run_pc hp (mkRecord e r) ((s.setLast (some (mkRecord e r))).advance r.len)
      rwa [hrun] at hpc
  · obtain ⟨i, rfl⟩ := exists_entry_of_optable he
    exact exists_handlerOf hop (op_ne_other i)

/-! ## What an executed instruction did, and why a step faults -/

/-- All `exec` can do when it answers next: the break halted, or the reference handler succeeded from the state with
`last` written and PC advanced, and the cycles were charged. -/
theorem exec_next {i : Instr} {s t : State} (h : exec i s = .next t) :
    (i.op = .BRK ∧ t = (s.setLast (some (instrRecord i s))).setStatus .halted) ∨
      (i.op ≠ .BRK ∧ ∃ hd u, handlerOf i.op = some hd ∧ hd (instrRecord i s) (s.atHandler i) = .ok u ∧
        t = u.charge (instrRecord i s)) := by
  rcases break_or_handler i with hop | ⟨hop, hd, hh⟩
  · rw [exec_of_break hop] at h
    cases h
    exact .inl ⟨hop, rfl⟩
  · rw [exec_of_handler hh] at h
    obtain ⟨-, u, hu, ht⟩ := perform_next h
    exact .inr ⟨hop, hd, u, hh, hu, ht⟩

/-- Settles O30: the engine's own state is written around the handler, which leaves it alone. -/
theorem engineBookkeeping : Obligations.EngineBookkeeping := by
  unfold Obligations.EngineBookkeeping
  intro i s t h
  rcases exec_next h with ⟨hop, rfl⟩ | ⟨hop, hd, u, hh, hu, rfl⟩
  · exact ⟨rfl, rfl, fun hne => absurd hop hne, fun _ => ⟨rfl, rfl⟩⟩
  · obtain ⟨hes, hpending, hlast, hcfg, -⟩ := handlerOf_untouched hh hu
    refine ⟨hlast, hcfg, fun _ => ⟨hes, ?_⟩, fun hb => absurd hb hop⟩
    rw [State.charge_pending, hpending, State.atHandler_pending, cycleCharge, ← Nat.add_assoc]
    rfl

/-- `exec` answers next, or faults at the top of memory where the faulting policy stands (40_addressing_modes.md
R146). -/
theorem exec_cases (i : Instr) (s : State) :
    (∃ t, exec i s = .next t) ∨ (exec i s = .fault (.memory 0xFFFF) ∧ s.cfg.topWrap = .fault) := by
  rcases break_or_handler i with hop | ⟨-, hd, hh⟩
  · exact .inl ⟨_, exec_of_break hop s⟩
  · rw [exec_of_handler hh]
    cases hf : resolutionFault i.mode i.arg s with
    | none =>
      obtain ⟨u, hu⟩ := handlerOf_succeeds hh (instrRecord i s) (s.atHandler i)
      exact .inl ⟨_, perform_ok hf hu⟩
    | some f =>
      refine .inr ?_
      unfold resolutionFault at hf
      split at hf
      · next hc =>
        obtain ⟨harg, hwrap⟩ := (wordFaults_iff _ _).1 (Bool.and_eq_true_iff.1 hc).2
        have hfault : resolutionFault i.mode i.arg s = some (.memory i.arg) := if_pos hc
        exact ⟨by rw [perform_of_resolutionFault hfault, harg], hwrap⟩
      · cases hf

/-- Settles O28: a step that executes faults in its fetch, at the top of memory in its operand fetch, or in `exec`. -/
theorem stepFaultCauses : Obligations.StepFaultCauses := by
  unfold Obligations.StepFaultCauses
  intro s
  have hexecutes : (∃ t, step s = .next t) ∨ ∃ f, step s = .fault f ∧
      (f = .decode (s.readByte s.pc) ∧ optable (s.readByte s.pc) = none ∨
        f = .memory 0xFFFF ∧ s.cfg.topWrap = .fault) := by
    rcases step_cases s with ⟨-, h⟩ | ⟨-, -, h⟩ | ⟨-, -, h⟩
    · exact .inl ⟨_, h⟩
    · exact .inl ⟨_, h⟩
    · rw [h, fetchExecute, fetchDecode_spend]
      cases hf : fetchDecode s with
      | ok i =>
        rcases exec_cases i (s.setStatus .running).spend with hnext | ⟨hfault, hwrap⟩
        · exact .inl hnext
        · exact .inr ⟨_, hfault, .inr ⟨rfl, hwrap⟩⟩
      | error f =>
        refine .inr ⟨f, rfl, (fetchDecode_error hf).imp id ?_⟩
        rintro ⟨rfl, hw, -⟩
        obtain ⟨hpos, hwrap⟩ := (wordFaults_iff _ _).1 hw
        exact ⟨by rw [hpos], hwrap⟩
  constructor
  · intro f hf
    rcases hexecutes with ⟨t, ht⟩ | ⟨g, hg, hcause⟩
    · rw [ht] at hf
      cases hf
    · rw [hg] at hf
      cases hf
      exact hcause
  · intro r hr
    rcases hexecutes with ⟨t, ht⟩ | ⟨g, hg, -⟩
    · rw [ht] at hr
      cases hr
    · rw [hg] at hr
      cases hr

end Sys2Proof.Machine
end

section
/-! Iterations of the run loop over any well-formed inputs, and the bounded run as iterations: the obligations on runs
and on the trace of the debug hook (41_engine_step.md R172, R183 to R186). -/

namespace Sys2Proof.Machine

/-! ## One iteration -/

theorem loopIteration_halted (w : EngineInputs) {s : State} (h : s.es = .halted) : loopIteration w s = .next s := by
  unfold loopIteration
  simp only [h]

theorem loopIteration_sentinel (w : EngineInputs) {s : State} (hes : s.es ≠ .halted)
    (hpc : s.pc = s.cfg.breakSentinel) : loopIteration w s = .next (s.setStatus .halted) := by
  rcases loopIteration_cases w s with ⟨h, -⟩ | ⟨-, -, h⟩ | ⟨-, h, -⟩
  · exact absurd h hes
  · exact h
  · exact absurd hpc h

theorem loopIteration_executes (w : EngineInputs) {s : State} (hes : s.es ≠ .halted)
    (hpc : s.pc ≠ s.cfg.breakSentinel) : loopIteration w s = engineStep w (s.setStatus .running).spend := by
  rcases loopIteration_cases w s with ⟨h, -⟩ | ⟨-, h, -⟩ | ⟨-, -, h⟩
  · exact absurd h hes
  · exact absurd h hpc
  · exact h

/-- Whether a not halted engine is idle or running is all the same to an iteration (41_engine_step.md R184). -/
theorem loopIteration_setStatus_running (w : EngineInputs) {s : State} (hes : s.es ≠ .halted) :
    loopIteration w (s.setStatus .running) = loopIteration w s := by
  have hrun : (s.setStatus .running).es ≠ .halted := by simp
  by_cases hpc : s.pc = s.cfg.breakSentinel
  · rw [loopIteration_sentinel w hes hpc, loopIteration_sentinel w hrun hpc]
    rfl
  · rw [loopIteration_executes w hes hpc, loopIteration_executes w hrun hpc]
    rfl

/-- The state on which an iteration dispatches: running, the counter spent, `last` written (41_engine_step.md R160,
R183). -/
def State.atDispatch (s : State) (ins : InstrRecord) : State := (s.setStatus .running).spend.setLast (some ins)

/-- An iteration of a not halted engine that answers next: it halted at the sentinel, it executed the break, or it ran
the handler of the decoded identity, which left the engine's own state alone. -/
theorem loopIteration_next {w : EngineInputs} (hw : w.WellFormed) {s t : State} (hes : s.es ≠ .halted)
    (h : loopIteration w s = .next t) :
    (s.pc = s.cfg.breakSentinel ∧ t = s.setStatus .halted) ∨
    (s.pc ≠ s.cfg.breakSentinel ∧ ∃ ins, decodeRecord w.optable s = .ok ins ∧
      (ins.op = .BRK ∧ t = (s.atDispatch ins).setStatus .halted ∨
        ins.op ≠ .BRK ∧ ∃ u, Untouched ((s.atDispatch ins).advance ins.len) u ∧ t = u.charge ins)) := by
  by_cases hpc : s.pc = s.cfg.breakSentinel
  · rw [loopIteration_sentinel w hes hpc] at h
    cases h
    exact .inl ⟨hpc, rfl⟩
  · rw [loopIteration_executes w hes hpc] at h
    obtain ⟨ins, hd, ⟨hop, rfl⟩ | ⟨hop, hdl, u, hh, hu, rfl⟩⟩ := engineStep_next h
    · exact .inr ⟨hpc, ins, hd, .inl ⟨hop, rfl⟩⟩
    · have huntouched := (hw.reach _ _ hh).untouched ins ((s.atDispatch ins).advance ins.len)
      rw [State.atDispatch, hu] at huntouched
      exact .inr ⟨hpc, ins, hd, .inr ⟨hop, u, huntouched, rfl⟩⟩

/-- No iteration leaves the engine idle (41_engine_step.md R183). -/
theorem loopIteration_ne_idle {w : EngineInputs} (hw : w.WellFormed) {s t : State} (h : loopIteration w s = .next t) :
    t.es ≠ .idle := by
  by_cases hes : s.es = .halted
  · rw [loopIteration_halted w hes] at h
    cases h
    rw [hes]
    decide
  · rcases loopIteration_next hw hes h with ⟨-, rfl⟩ | ⟨-, ins, -, ⟨-, rfl⟩ | ⟨-, u, hu, rfl⟩⟩
    · simp
    · simp
    · rw [State.charge_es, hu.es]
      simp [State.atDispatch]

/-- An iteration that halts did so at the sentinel or by break, and moved neither PC nor a cell (41_engine_step.md
R185). -/
theorem loopIteration_halts {w : EngineInputs} (hw : w.WellFormed) {s t : State} (hes : s.es ≠ .halted)
    (h : loopIteration w s = .next t) (ht : t.es = .halted) :
    (s.pc = s.cfg.breakSentinel ∨ (w.optable (s.readByte s.pc)).map Entry.op = some .BRK) ∧
      t.pc = s.pc ∧ t.mem = s.mem ∧ t.cfg = s.cfg := by
  rcases loopIteration_next hw hes h with ⟨hpc, rfl⟩ | ⟨-, ins, hd, ⟨hop, rfl⟩ | ⟨-, u, hu, rfl⟩⟩
  · exact ⟨.inl hpc, rfl, rfl, rfl⟩
  · obtain ⟨e, r, he, -, rfl⟩ := decodeRecord_ok hd
    exact ⟨.inr (by rw [he]; exact congrArg some hop), rfl, rfl, rfl⟩
  · rw [State.charge_es, hu.es] at ht
    cases ht

/-! ## The bounded run as iterations -/

/-- Sequencing of outcomes: the first stop ends both. -/
def andThen (r : Result) (k : State → Result) : Result :=
  match r with
  | .next t => k t
  | .fault f => .fault f
  | .refused q => .refused q

@[simp] theorem andThen_next_eq (t : State) (k : State → Result) : andThen (.next t) k = k t := rfl
@[simp] theorem andThen_fault_eq (f : Fault) (k : State → Result) : andThen (.fault f) k = .fault f := rfl

theorem andThen_congr {r : Result} {k k' : State → Result} (h : ∀ t, r = .next t → k t = k' t) :
    andThen r k = andThen r k' := by
  cases r with
  | next t => exact h t rfl
  | fault f => rfl
  | refused q => rfl

theorem andThen_assoc (r : Result) (k k' : State → Result) :
    andThen (andThen r k) k' = andThen r fun t => andThen (k t) k' := by
  cases r <;> rfl

/-- A sequence answers next through a next state of its first part. -/
theorem andThen_next {r : Result} {k : State → Result} {t : State} (h : andThen r k = .next t) :
    ∃ u, r = .next u ∧ k u = .next t := by
  cases r with
  | next u => exact ⟨u, rfl, h⟩
  | fault f => cases h
  | refused q => cases h

theorem runBounded_halted (w : EngineInputs) (n : Nat) {s : State} (h : s.es = .halted) :
    runBounded w n s = .next s := by
  rw [runBounded, if_pos h]

/-- A budget of 0 only sets a not halted engine running (Note to D16, log 28). -/
theorem runBounded_zero (w : EngineInputs) {s : State} (h : s.es ≠ .halted) :
    runBounded w 0 s = .next (s.setStatus .running) := by
  rw [runBounded, if_neg h, boundedLoop]

theorem State.setStatus_self {s : State} {e : EngineStatus} (h : s.es = e) : s.setStatus e = s := by
  subst h
  rfl

/-- An engine that is not idle is where the loop starts. -/
theorem runBounded_eq_boundedLoop (w : EngineInputs) (n : Nat) {s : State} (h : s.es ≠ .idle) :
    runBounded w n s = boundedLoop w n s := by
  cases hes : s.es with
  | idle => exact absurd hes h
  | halted =>
    rw [runBounded_halted w n hes]
    cases n with
    | zero => rfl
    | succ n => rw [boundedLoop, if_pos hes]
  | running =>
    rw [runBounded, if_neg (by rw [hes]; decide), State.setStatus_self hes]

/-- The loop's body is one iteration (41_engine_step.md R184). -/
theorem boundedLoop_succ (w : EngineInputs) (n : Nat) {s : State} (hes : s.es = .running) :
    boundedLoop w (n + 1) s = andThen (loopIteration w s) (boundedLoop w n) := by
  have hne : s.es ≠ .halted := by rw [hes]; decide
  rw [boundedLoop, if_neg hne]
  by_cases hpc : s.pc = s.cfg.breakSentinel
  · have hhalted : (s.setStatus .halted).es ≠ .idle := by simp
    rw [if_pos hpc, loopIteration_sentinel w hne hpc, andThen_next_eq, ← runBounded_eq_boundedLoop w n hhalted,
      runBounded_halted w n rfl]
  · rw [if_neg hpc, loopIteration_executes w hne hpc, State.setStatus_self hes]
    cases engineStep w s.spend <;> rfl

/-- A bounded run of a positive budget is an iteration and a run of what is left (41_engine_step.md R184). -/
theorem runBounded_succ {w : EngineInputs} (hw : w.WellFormed) (n : Nat) (s : State) :
    runBounded w (n + 1) s = andThen (loopIteration w s) (runBounded w n) := by
  by_cases hes : s.es = .halted
  · rw [runBounded_halted w _ hes, loopIteration_halted w hes, andThen_next_eq, runBounded_halted w n hes]
  · rw [runBounded, if_neg hes, boundedLoop_succ w n (State.setStatus_es s .running),
      loopIteration_setStatus_running w hes]
    exact andThen_congr fun t ht => (runBounded_eq_boundedLoop w n (loopIteration_ne_idle hw ht)).symm

/-- Two runs one after the other are one run of the summed budget (41_engine_step.md R184). -/
theorem runBounded_add {w : EngineInputs} (hw : w.WellFormed) (m n : Nat) (s : State) :
    runBounded w (m + n) s = andThen (runBounded w m s) (runBounded w n) := by
  induction m generalizing s with
  | zero =>
    rw [Nat.zero_add]
    by_cases hes : s.es = .halted
    · rw [runBounded_halted w 0 hes, andThen_next_eq]
    · rw [runBounded_zero w hes, andThen_next_eq, runBounded_eq_boundedLoop w n (s := s.setStatus .running) (by simp),
        runBounded, if_neg hes]
  | succ m ih =>
    rw [Nat.succ_add, runBounded_succ hw, runBounded_succ hw, andThen_assoc]
    exact andThen_congr fun t _ => ih t

/-- What a run keeps: every iteration keeps it, and setting a not halted engine running does (41_engine_step.md R184).
-/
theorem runBounded_keeps {w : EngineInputs} (hw : w.WellFormed) {P : State → Prop}
    (hrun : ∀ s, P s → s.es ≠ .halted → P (s.setStatus .running))
    (hiter : ∀ s t, P s → loopIteration w s = .next t → P t) {n : Nat} {s t : State} (hs : P s)
    (h : runBounded w n s = .next t) : P t := by
  induction n generalizing s with
  | zero =>
    by_cases hes : s.es = .halted
    · rw [runBounded_halted w 0 hes] at h
      cases h
      exact hs
    · rw [runBounded_zero w hes] at h
      cases h
      exact hrun s hs hes
  | succ n ih =>
    rw [runBounded_succ hw] at h
    obtain ⟨u, hu, ht⟩ := andThen_next h
    exact ih (hiter s u hs hu) ht

/-! ## The sentinel and the halted engine -/

/-- Settles O21: the status is tested first, then the sentinel, before the counter is spent. -/
theorem sentinelAndHaltedEngine : Obligations.SentinelAndHaltedEngine := by
  unfold Obligations.SentinelAndHaltedEngine
  intro w s
  constructor
  · intro hes hpc
    have hpositive (n : Nat) : runBounded w (n + 1) s = .next (s.setStatus .halted) := by
      rw [runBounded, if_neg hes, boundedLoop, if_neg (by simp)]
      exact if_pos hpc
    refine ⟨?_, loopIteration_sentinel w hes hpc, hpositive, runBounded_zero w hes, ⟨1, hpositive 0, rfl⟩, ?_⟩
    · rw [stepIsEngineStep]
      exact loopIteration_sentinel .ref hes hpc
    · rw [hookEvent, if_pos (.inr hpc)]
  · intro hes
    refine ⟨?_, loopIteration_halted w hes, fun n => runBounded_halted w n hes,
      ⟨0, runBounded_halted w 0 hes, hes⟩, ?_⟩
    · rw [stepIsEngineStep]
      exact loopIteration_halted .ref hes
    · rw [hookEvent, if_pos (.inl hes)]

/-! ## The bounded run and the ends of a run -/

/-- The host's run, one step at a time. -/
theorem coreRun_succ (n : Nat) (s : State) :
    Host.Core.run core (n + 1) s = andThen (step s) (Host.Core.run core n) := by
  rw [show step s = core.step s from rfl]
  simp only [Host.Core.run, andThen]
  cases core.step s <;> rfl

/-- On an engine that is not idle, bounded run and iterated step agree for every budget, 0 too. -/
theorem runBounded_ref_eq_coreRun (n : Nat) {s : State} (hes : s.es ≠ .idle) :
    runBounded .ref n s = Host.Core.run core n s := by
  induction n generalizing s with
  | zero =>
    rw [runBounded_eq_boundedLoop _ _ hes]
    rfl
  | succ n ih =>
    rw [runBounded_succ ref_wellFormed, coreRun_succ, stepIsEngineStep]
    exact andThen_congr fun t ht => ih (loopIteration_ne_idle ref_wellFormed ht)

/-- Settles O25: a run is a sequence of iterations, and with the reference inputs an iteration is a step. -/
theorem boundedRunIsIteratedStep : Obligations.BoundedRunIsIteratedStep := by
  unfold Obligations.BoundedRunIsIteratedStep
  refine ⟨fun w s => ?_, fun n s => ?_, fun w hw m n s => ?_⟩
  · by_cases hes : s.es = .halted
    · rw [runBounded_halted w 0 hes, if_pos hes]
    · rw [runBounded_zero w hes, if_neg hes]
      rfl
  · rw [runBounded_succ ref_wellFormed, coreRun_succ, stepIsEngineStep]
    exact andThen_congr fun t ht => runBounded_ref_eq_coreRun n (loopIteration_ne_idle ref_wellFormed ht)
  · rw [runBounded_add hw]
    cases runBounded w m s <;> rfl

/-- A larger budget does not change a run that ended halted (41_engine_step.md R185). -/
theorem runBounded_of_returned {w : EngineInputs} (hw : w.WellFormed) {m n : Nat} (hmn : m ≤ n) {s t : State}
    (h : runBounded w m s = .next t) (ht : t.es = .halted) : runBounded w n s = .next t := by
  obtain ⟨k, rfl⟩ := Nat.exists_eq_add_of_le hmn
  rw [runBounded_add hw, h, andThen_next_eq, runBounded_halted w k ht]

/-- A larger budget does not change a run that faulted (41_engine_step.md R185). -/
theorem runBounded_of_faulted {w : EngineInputs} (hw : w.WellFormed) {m n : Nat} (hmn : m ≤ n) {s : State} {f : Fault}
    (h : runBounded w m s = .fault f) : runBounded w n s = .fault f := by
  obtain ⟨k, rfl⟩ := Nat.exists_eq_add_of_le hmn
  rw [runBounded_add hw, h, andThen_fault_eq]

/-- A run that ends halted ends at the sentinel or on a break (41_engine_step.md R185). -/
theorem runBounded_halts {w : EngineInputs} (hw : w.WellFormed) {n : Nat} {s t : State} (hes : s.es ≠ .halted)
    (h : runBounded w n s = .next t) (ht : t.es = .halted) :
    t.pc = t.cfg.breakSentinel ∨ (w.optable (t.readByte t.pc)).map Entry.op = some .BRK := by
  induction n generalizing s with
  | zero =>
    rw [runBounded_zero w hes] at h
    cases h
    cases ht
  | succ n ih =>
    rw [runBounded_succ hw] at h
    obtain ⟨u, hu, hrest⟩ := andThen_next h
    by_cases hue : u.es = .halted
    · rw [runBounded_halted w n hue] at hrest
      cases hrest
      obtain ⟨hcause, hpc, hmem, hcfg⟩ := loopIteration_halts hw hes hu ht
      rwa [hpc, hcfg, State.readByte_congr hmem]
    · exact ih hue hrest

/-- Settles O26: the larger of two budgets decides between two ends. -/
theorem runEnds : Obligations.RunEnds := by
  unfold Obligations.RunEnds
  refine fun w hw => ⟨?_, ?_, ?_⟩
  · rintro s t t' ⟨m, hm, ht⟩ ⟨n, hn, ht'⟩
    have h := runBounded_of_returned hw (le_max_left m n) hm ht
    rw [runBounded_of_returned hw (le_max_right m n) hn ht'] at h
    cases h
    rfl
  · rintro s t f ⟨m, hm, ht⟩ ⟨n, hn⟩
    have h := runBounded_of_returned hw (le_max_left m n) hm ht
    rw [runBounded_of_faulted hw (le_max_right m n) hn] at h
    cases h
  · rintro s t hes ⟨n, hn, ht⟩
    exact ⟨ht, runBounded_halts hw hes hn ht⟩

/-! ## The trace of the debug hook -/

/-- What the events of a run of `n` iterations from `s` to `t` are (41_engine_step.md R172). -/
structure TraceOf (n : Nat) (s t : State) (events : List HookEvent) : Prop where
  length_le      : events.length ≤ n
  length_eq      : t.es ≠ .halted → events.length = n
  only_last_brk  : ∀ ev ∈ events.dropLast, ev.ins.op ≠ .BRK
  last_of_events : ∀ ev, events.getLast? = some ev → t.last = some ev.ins
  last_of_nil    : events = [] → t.last = s.last
  halted_by_brk  : t.es = .halted → t.pc ≠ t.cfg.breakSentinel →
    ∃ ev, events.getLast? = some ev ∧ ev.ins.op = .BRK ∧ ev.pc = t.pc

/-- An event in front of a trace: the iteration that emitted it kept its record in `last`, and it is no break. -/
theorem TraceOf.cons {n : Nat} {s u t : State} {events : List HookEvent} {ev : HookEvent} (h : TraceOf n u t events)
    (hev : ev.ins.op ≠ .BRK) (hlast : u.last = some ev.ins) : TraceOf (n + 1) s t (ev :: events) := by
  cases events with
  | nil =>
    refine ⟨by simp, fun ht => by rw [← h.length_eq ht]; rfl, by simp, fun ev' he => ?_, by simp, fun ht hpc => ?_⟩
    · rw [List.getLast?_singleton, Option.some.injEq] at he
      rw [h.last_of_nil rfl, hlast, he]
    · obtain ⟨ev', he, -⟩ := h.halted_by_brk ht hpc
      cases he
  | cons e rest =>
    have hgetLast : (ev :: e :: rest).getLast? = (e :: rest).getLast? := rfl
    refine ⟨Nat.succ_le_succ h.length_le, fun ht => congrArg Nat.succ (h.length_eq ht), fun ev' he => ?_, ?_,
      by simp, ?_⟩
    · rcases List.mem_cons.1 he with rfl | he
      · exact hev
      · exact h.only_last_brk ev' he
    · rw [hgetLast]
      exact h.last_of_events
    · rw [hgetLast]
      exact h.halted_by_brk

theorem trace_succ (w : EngineInputs) (n : Nat) {s t : State} (h : loopIteration w s = .next t) :
    trace w (n + 1) s = (hookEvent w s).toList ++ trace w n t := by
  simp only [trace, h]

/-- A halted engine emits nothing (41_engine_step.md R186). -/
theorem trace_halted (w : EngineInputs) (n : Nat) {s : State} (h : s.es = .halted) : trace w n s = [] := by
  induction n with
  | zero => rfl
  | succ n ih => rw [trace_succ w n (loopIteration_halted w h), ih, hookEvent, if_pos (.inl h)]; rfl

/-- The trace of a bounded run that returns. -/
theorem traceOf_runBounded {w : EngineInputs} (hw : w.WellFormed) {n : Nat} {s t : State} (hes : s.es ≠ .halted)
    (h : runBounded w n s = .next t) : TraceOf n s t (trace w n s) := by
  induction n generalizing s with
  | zero =>
    rw [runBounded_zero w hes] at h
    cases h
    exact ⟨le_rfl, fun _ => rfl, by simp [trace], by simp [trace], fun _ => rfl, fun ht => by simp at ht⟩
  | succ n ih =>
    rw [runBounded_succ hw] at h
    obtain ⟨u, hu, hrest⟩ := andThen_next h
    rw [trace_succ w n hu]
    rcases loopIteration_next hw hes hu with ⟨hpc, rfl⟩ | ⟨hpc, ins, hd, ⟨hop, rfl⟩ | ⟨hop, v, hv, rfl⟩⟩
    · have hhalted : (s.setStatus .halted).es = .halted := rfl
      rw [runBounded_halted w n hhalted] at hrest
      cases hrest
      rw [trace_halted w n hhalted, hookEvent, if_pos (.inr hpc)]
      exact ⟨by simp, by simp, by simp, by simp, fun _ => rfl, fun _ hne => absurd hpc hne⟩
    · have hhalted : ((s.atDispatch ins).setStatus .halted).es = .halted := rfl
      rw [runBounded_halted w n hhalted] at hrest
      cases hrest
      rw [trace_halted w n hhalted, hookEvent_of_decode hes hpc hd]
      refine ⟨by simp, by simp, by simp, fun ev he => ?_, by simp, fun _ _ => ⟨hook s ins, rfl, hop, rfl⟩⟩
      cases he
      rfl
    · have hrunning : (v.charge ins).es = .running := hv.es
      rw [hookEvent_of_decode hes hpc hd]
      exact (ih (by rw [hrunning]; decide) hrest).cons hop hv.last

/-- Settles O29: decoding looks at the state the step found, and the trace grows by one event per executed
instruction. -/
theorem hookSeesPreMutationState : Obligations.HookSeesPreMutationState := by
  unfold Obligations.HookSeesPreMutationState
  constructor
  · intro s t hes hpc h
    rw [stepIsEngineStep] at h
    rcases loopIteration_next ref_wellFormed hes h with ⟨hpc', -⟩ | ⟨-, ins, hd, hcase⟩
    · exact absurd hpc' hpc
    · refine ⟨ins, hookEvent_of_decode hes hpc hd, ?_⟩
      rcases hcase with ⟨-, rfl⟩ | ⟨-, u, hu, rfl⟩
      · rfl
      · exact hu.last
  · intro w hw n s t hes h
    obtain ⟨hle, heq, hbrk, hlast, -, hhalted⟩ := traceOf_runBounded hw hes h
    exact ⟨hle, heq, hbrk, hlast, hhalted⟩

end Sys2Proof.Machine
end

section
/-! What iterations and host commands keep, and what they do not look at: the obligations on the invariant, the
configuration, the pending counter and the engine status. -/

namespace Sys2Proof.Machine

/-! ## Records that resolution fills are well formed -/

/-- All `resolve` can do when it succeeds (40_addressing_modes.md R131). -/
theorem resolve_ok {mode : Mode} {pc : Word} {s : State} {r : Resolution} (h : resolve mode pc s = .ok r) :
    ∃ arg, operandArg mode pc s = .ok arg ∧
      r = ⟨(resolveLoc mode arg s).1, arg, mode.len, (resolveLoc mode arg s).2⟩ := by
  unfold resolve at h
  split at h
  · cases h
  · next arg harg =>
    split at h
    · cases h
    · cases h
      exact ⟨arg, harg, rfl⟩

/-- The raw argument is no wider than the operand bytes of the mode (40_addressing_modes.md R131). -/
theorem operandArg_width {mode : Mode} {pc : Word} {s : State} {arg : Word} (h : operandArg mode pc s = .ok arg) :
    (mode.len = 1 → arg = 0) ∧ (mode.len = 2 → arg < 256) := by
  have hbyte : (s.readByte (pc + 1)).zeroExtend 16 < 256 := by
    have := (s.readByte (pc + 1)).isLt
    rw [BitVec.lt_def]
    simp only [BitVec.truncate_eq_setWidth, BitVec.toNat_setWidth, BitVec.reduceToNat]
    omega
  cases mode
  case IMP | ACC => cases h; exact ⟨fun _ => rfl, nofun⟩
  case IMM | ZP | ZPX | ZPY | IZX | IZY | REL => cases h; exact ⟨nofun, fun _ => hbyte⟩
  all_goals exact ⟨nofun, nofun⟩

/-- An address exactly in the modes that have one (40_addressing_modes.md R132 to R144). -/
theorem resolveLoc_none_iff (mode : Mode) (arg : Word) (s : State) :
    ((resolveLoc mode arg s).1 == .none) = mode.noAddress := by
  cases mode <;> rfl

/-- A crossing only where a 16-bit index can cross (40_addressing_modes.md R145). -/
theorem indexed16_of_crossed {mode : Mode} {arg : Word} {s : State} (h : (resolveLoc mode arg s).2 = true) :
    mode.indexed16 = true := by
  cases mode
  case ABX | ABY | IZY => rfl
  all_goals cases h

/-- Decoding a table entry gives a well-formed record (10_state.md R40). -/
theorem mkRecord_wellFormed {e : Entry} {pc : Word} {s : State} {r : Resolution} (hcyc : 1 ≤ e.cyc)
    (h : resolve e.mode pc s = .ok r) : (mkRecord e r).wellFormed = true := by
  obtain ⟨arg, harg, rfl⟩ := resolve_ok h
  obtain ⟨hone, htwo⟩ := operandArg_width harg
  have hcross := @indexed16_of_crossed e.mode arg s
  simp only [InstrRecord.wellFormed, mkRecord, Bool.and_eq_true, Bool.or_eq_true, decide_eq_true_eq, bne_iff_ne,
    beq_iff_eq, Bool.not_eq_true', resolveLoc_none_iff, hcyc, and_self, true_and]
  refine ⟨⟨?_, ?_⟩, ?_⟩
  · exact Classical.or_iff_not_imp_left.2 fun hl => hone (not_not.1 hl)
  · exact Classical.or_iff_not_imp_left.2 fun hl => decide_eq_true (htwo (not_not.1 hl))
  · exact (Bool.eq_false_or_eq_true _).symm.imp id hcross

/-- The record an iteration decodes is well formed and of a row of the table. -/
theorem decodeRecord_wellFormed {w : EngineInputs} (hw : w.WellFormed) {s : State} {ins : InstrRecord}
    (h : decodeRecord w.optable s = .ok ins) :
    ins.wellFormed = true ∧ ∃ opc, w.optable opc = some ⟨ins.op, ins.mode, ins.cyc, ins.xflag⟩ := by
  obtain ⟨e, r, he, hr, rfl⟩ := decodeRecord_ok h
  exact ⟨mkRecord_wellFormed (hw.cycles _ e he) hr, _, he⟩

/-! ## The invariant -/

section Invariant
variable {w : EngineInputs} {s t : State}

/-- What writes neither `last` nor, but to halt, the status keeps the invariant if it keeps memory canonical. -/
theorem Inv.of_last_eq (h : Inv w s) (hmem : t.mem.wf) (hlast : t.last = s.last) (hes : t.es = s.es ∨ t.es = .halted) :
    Inv w t where
  mem_canonical := hmem
  last_wellFormed := by rw [hlast]; exact h.last_wellFormed
  last_tableRow := by rw [hlast]; exact h.last_tableRow
  break_halts r hr hop := hes.elim (fun he => he.trans (h.break_halts r (hlast ▸ hr) hop)) id

/-- An empty slot asks for nothing but canonical memory. -/
theorem Inv.of_last_none (hmem : t.mem.wf) (hlast : t.last = none) : Inv w t where
  mem_canonical := hmem
  last_wellFormed r hr := by rw [hlast] at hr; cases hr
  last_tableRow r hr := by rw [hlast] at hr; cases hr
  break_halts r hr := by rw [hlast] at hr; cases hr

/-- Setting a not halted engine running keeps the invariant: no break has executed. -/
theorem Inv.setStatus_running (h : Inv w s) (hes : s.es ≠ .halted) : Inv w (s.setStatus .running) where
  mem_canonical := h.mem_canonical
  last_wellFormed := h.last_wellFormed
  last_tableRow := h.last_tableRow
  break_halts r hr hop := absurd (h.break_halts r hr hop) hes

/-- A decoded record in the slot of a state with canonical memory, halted if it is the break's. -/
theorem Inv.of_decodeRecord (hw : w.WellFormed) {u : State} {ins : InstrRecord}
    (hd : decodeRecord w.optable u = .ok ins) (hmem : t.mem.wf) (hlast : t.last = some ins)
    (hbrk : ins.op = .BRK → t.es = .halted) : Inv w t := by
  obtain ⟨hwf, hrow⟩ := decodeRecord_wellFormed hw hd
  refine ⟨hmem, fun r hr => ?_, fun r hr => ?_, fun r hr => ?_⟩ <;> rw [hlast] at hr <;> cases hr
  · exact hwf
  · exact hrow
  · exact hbrk

/-- Every iteration keeps the invariant. -/
theorem loopIteration_inv (hw : w.WellFormed) (hs : Inv w s) (h : loopIteration w s = .next t) : Inv w t := by
  by_cases hes : s.es = .halted
  · rw [loopIteration_halted w hes] at h
    cases h
    exact hs
  · rcases loopIteration_next hw hes h with ⟨-, rfl⟩ | ⟨-, ins, hd, ⟨-, rfl⟩ | ⟨hop, u, hu, rfl⟩⟩
    · exact hs.of_last_eq hs.mem_canonical rfl (.inr rfl)
    · exact .of_decodeRecord hw hd hs.mem_canonical rfl fun _ => rfl
    · exact .of_decodeRecord hw hd (hu.mem hs.mem_canonical) hu.last fun hb => absurd hb hop

/-- Both loads' common part leaves the engine's own state and the configuration alone (70_reset_and_hazards.md R371).
-/
theorem loadAt_untouched {vector : Word} {bytes : List Byte} (h : loadAt vector bytes s = .ok t) : Untouched s t := by
  obtain ⟨heq, hmem⟩ := loadAt_ok h
  rw [heq]
  exact ⟨rfl, rfl, rfl, rfl, hmem⟩

theorem resetOperation_inv (hs : s.mem.wf) (h : resetOperation s = .next t) : Inv w t := by
  obtain ⟨-, rfl⟩ := resetOperation_next h
  exact .of_last_none hs rfl

theorem loadProduction_inv {bytes : List Byte} (hs : Inv w s) (h : loadProduction bytes s = .next t) : Inv w t := by
  unfold loadProduction at h
  split at h
  · cases h
  · next u hu => exact resetOperation_inv ((loadAt_untouched hu).mem hs.mem_canonical) h

theorem loadTest_inv {bytes : List Byte} (hs : Inv w s) (h : loadTest bytes s = .next t) : Inv w t := by
  unfold loadTest at h
  split at h
  · cases h
  · next u hu =>
    cases h
    have hload := loadAt_untouched hu
    exact hs.of_last_eq (hload.mem hs.mem_canonical) hload.last (.inl hload.es)

end Invariant

/-- Settles O32: a step is an iteration with the reference inputs, which are well formed. -/
theorem stepKeepsInvariant : Obligations.StepKeepsInvariant := by
  unfold Obligations.StepKeepsInvariant
  intro s t hs h
  rw [stepIsEngineStep] at h
  exact loopIteration_inv ref_wellFormed hs h

/-- Settles O33: memory and slot are empty at reset. -/
theorem resetMeetsInvariant : Obligations.ResetMeetsInvariant := by
  unfold Obligations.ResetMeetsInvariant
  exact .of_last_none Memory.wf_nil rfl

/-- Settles O34: a reset clears the slot, a run is iterations, and every other command leaves the slot and the status.
-/
theorem commandsKeepInvariant : Obligations.CommandsKeepInvariant := by
  unfold Obligations.CommandsKeepInvariant
  intro w hw c s t hs h
  have hregister {u : State} (hmem : u.mem.wf) (hlast : u.last = s.last) (hes : u.es = s.es) : Inv w u :=
    hs.of_last_eq hmem hlast (.inl hes)
  cases c with
  | reset => exact resetOperation_inv hs.mem_canonical h
  | loadProduction bytes => exact loadProduction_inv hs h
  | loadTest bytes => exact loadTest_inv hs h
  | runBounded n =>
    exact runBounded_keeps hw (P := Inv w) (fun _ hu hes => hu.setStatus_running hes)
      (fun _ _ hu hiter => loopIteration_inv hw hu hiter) hs h
  | writeMemory addr v => cases h; exact hregister (State.writeByte_wf hs.mem_canonical addr v) rfl rfl
  | writeA v | writeX v | writeY v | writeSP v | writePC v | writeFlags v =>
    cases h
    exact hregister hs.mem_canonical rfl rfl

/-! ## The configuration -/

/-- No iteration writes the configuration. -/
theorem loopIteration_cfg {w : EngineInputs} (hw : w.WellFormed) {s t : State} (h : loopIteration w s = .next t) :
    t.cfg = s.cfg := by
  by_cases hes : s.es = .halted
  · rw [loopIteration_halted w hes] at h
    cases h
    rfl
  · rcases loopIteration_next hw hes h with ⟨-, rfl⟩ | ⟨-, ins, -, ⟨-, rfl⟩ | ⟨-, u, hu, rfl⟩⟩
    · rfl
    · rfl
    · exact hu.cfg

theorem resetOperation_cfg {s t : State} (h : resetOperation s = .next t) : t.cfg = s.cfg := by
  obtain ⟨-, rfl⟩ := resetOperation_next h
  rfl

/-- Settles O35: neither the iterations nor the loads nor the reset write it. -/
theorem configurationIsFixed : Obligations.ConfigurationIsFixed := by
  unfold Obligations.ConfigurationIsFixed
  refine ⟨fun s t h => ?_, fun w hw s t h => loopIteration_cfg hw h, fun w hw c s t h => ?_⟩
  · rw [stepIsEngineStep] at h
    exact loopIteration_cfg ref_wellFormed h
  · cases c with
    | reset => exact resetOperation_cfg h
    | loadProduction bytes =>
      simp only [command, loadProduction] at h
      split at h
      · cases h
      · next u hu => exact (resetOperation_cfg h).trans (loadAt_untouched hu).cfg
    | loadTest bytes =>
      simp only [command, loadTest] at h
      split at h
      · cases h
      · next u hu =>
        cases h
        exact (loadAt_untouched hu).cfg
    | runBounded n =>
      exact runBounded_keeps hw (P := fun u => u.cfg = s.cfg) (fun _ hu _ => hu)
        (fun _ _ hu hiter => (loopIteration_cfg hw hiter).trans hu) rfl h
    | writeA v | writeX v | writeY v | writeSP v | writePC v | writeFlags v | writeMemory _ v => cases h; rfl

/-! ## The pending counter -/

/-- A handler in its reach neither reads nor writes the pending counter. -/
theorem Handler.InReach.setPending {h : Handler} (hr : h.InReach) (ins : InstrRecord) (s : State) (n : Nat) :
    h ins (s.setPending n) = mapState (·.setPending n) (h ins s) := by
  obtain ⟨p, hp⟩ := hr
  rw [hp, hp]
  exact (p ins).run_setPending ins s n

/-- Up to the counter, the engine step does not depend on the counter. -/
theorem engineStep_setPending {w : EngineInputs} (hw : w.WellFormed) (s : State) (n : Nat) :
    mapNext (fun t => t.setPending 0) (engineStep w (s.setPending n)) =
      mapNext (fun t => t.setPending 0) (engineStep w s) := by
  have hsame : decodeRecord w.optable (s.setPending n) = decodeRecord w.optable s := rfl
  cases hd : decodeRecord w.optable s with
  | error f =>
    rw [(engineStep_of_error (engineLines_of_decode_error hd)).1,
      (engineStep_of_error (engineLines_of_decode_error (hsame.trans hd))).1]
  | ok ins =>
    by_cases hop : ins.op = .BRK
    · rw [engineStep_of_ok (engineLines_of_break hd hop), engineStep_of_ok (engineLines_of_break (hsame.trans hd) hop)]
      rfl
    · cases hh : w.handlers ins.op with
      | none =>
        rw [(engineStep_of_error (engineLines_of_no_handler hd hop hh)).1,
          (engineStep_of_error (engineLines_of_no_handler (hsame.trans hd) hop hh)).1]
      | some h =>
        have hrun := (hw.reach _ _ hh).setPending ins ((s.setLast (some ins)).advance ins.len) n
        rw [engineStep_of_handler hd hop hh, engineStep_of_handler (hsame.trans hd) hop hh, runHandler, runHandler,
          show ((s.setPending n).setLast (some ins)).advance ins.len =
            ((s.setLast (some ins)).advance ins.len).setPending n from rfl, hrun]
        cases h ins ((s.setLast (some ins)).advance ins.len) <;> rfl

/-- Up to the counter, an iteration does not depend on the counter. -/
theorem loopIteration_setPending {w : EngineInputs} (hw : w.WellFormed) (s : State) (p : Nat) :
    mapNext (fun t => t.setPending 0) (loopIteration w (s.setPending p)) =
      mapNext (fun t => t.setPending 0) (loopIteration w s) := by
  rcases loopIteration_cases w s with ⟨hes, -⟩ | ⟨hes, hpc, -⟩ | ⟨hes, hpc, -⟩
  · rw [loopIteration_halted w hes, loopIteration_halted w (s := s.setPending p) hes]
    rfl
  · rw [loopIteration_sentinel w hes hpc, loopIteration_sentinel w (s := s.setPending p) hes hpc]
    rfl
  · rw [loopIteration_executes w hes hpc, loopIteration_executes w (s := s.setPending p) hes hpc]
    exact engineStep_setPending hw (s.setStatus .running).spend (p - 1)

/-- Settles O36: the counter is spent and charged, and read by nothing else. -/
theorem pendingIsUnobservable : Obligations.PendingIsUnobservable := by
  unfold Obligations.PendingIsUnobservable
  refine ⟨fun s p => ?_, fun w hw s p => ⟨loopIteration_setPending hw s p, rfl⟩⟩
  rw [stepIsEngineStep, stepIsEngineStep]
  exact loopIteration_setPending ref_wellFormed s p

end Sys2Proof.Machine
end

section
/-! What each reference handler reads and writes, by groups of operations: the obligations that quantify over all
instructions, on the status, the decimal flag, the flag and register writers and the store targets. -/

namespace Sys2Proof.Machine

/-! ## The shared bodies, field by field -/

/-- A branch writes PC and nothing else (44_ref_control_flow.md R270). -/
theorem branch_eq (cond : Bool) (ins : InstrRecord) (s : State) :
    branch cond ins s = s.setPC (if cond then s.pc + (loByte ins.arg).signExtend 16 else s.pc) := by
  unfold branch
  split <;> rfl

/-- An operand write to an address is a byte write (41_engine_step.md R177). -/
theorem operandWrite_addr {ins : InstrRecord} {a : Word} (h : ins.loc = .addr a) (v : Byte) (s : State) :
    operandWrite ins v s = s.writeByte a v := by
  simp only [operandWrite, h]

/-- An operand write without an address is a write of A (41_engine_step.md R177). -/
theorem operandWrite_none {ins : InstrRecord} (h : ins.loc = .none) (v : Byte) (s : State) :
    operandWrite ins v s = s.setA v := by
  simp only [operandWrite, h]

theorem operandRead_none {ins : InstrRecord} (h : ins.loc = .none) (s : State) :
    operandRead ins s = if ins.mode = .IMM then loByte ins.arg else s.a := by
  simp only [operandRead, h]

theorem operandRead_addr {ins : InstrRecord} {a : Word} (h : ins.loc = .addr a) (s : State) :
    operandRead ins s = s.readByte a := by
  simp only [operandRead, h]

@[simp] theorem operandWrite_x (ins : InstrRecord) (v : Byte) (s : State) : (operandWrite ins v s).x = s.x := by
  unfold operandWrite
  split <;> rfl

@[simp] theorem operandWrite_y (ins : InstrRecord) (v : Byte) (s : State) : (operandWrite ins v s).y = s.y := by
  unfold operandWrite
  split <;> rfl

@[simp] theorem operandWrite_sp (ins : InstrRecord) (v : Byte) (s : State) : (operandWrite ins v s).sp = s.sp := by
  unfold operandWrite
  split <;> rfl

@[simp] theorem operandWrite_pc (ins : InstrRecord) (v : Byte) (s : State) : (operandWrite ins v s).pc = s.pc := by
  unfold operandWrite
  split <;> rfl

/-! ## Outcomes up to what a map forgets -/

/-- Handlers that answer alike up to `f` have steps that do, where charging cycles commutes with `f`. -/
theorem mapNext_runHandler_congr {f : State → State} {h : Handler} {ins : InstrRecord} {s s' : State}
    (hcharge : ∀ t : State, f (t.charge ins) = (f t).charge ins)
    (hh : mapState f (h ins s') = mapState f (h ins s)) :
    mapNext f (runHandler h ins s') = mapNext f (runHandler h ins s) := by
  unfold runHandler
  cases hs : h ins s <;> cases hs' : h ins s' <;> rw [hs, hs'] at hh
  · simp only [mapState, Except.error.injEq, Failure.mk.injEq] at hh
    simp only [mapNext, hh.1]
  · cases hh
  · cases hh
  · simp only [mapNext, hcharge, Except.ok.inj hh]

/-- Where the reference handlers answer alike up to `f`, so do the instructions. -/
theorem mapNext_exec_congr {f : State → State} {i : Instr} {s s' : State}
    (hcharge : ∀ (t : State) (ins : InstrRecord), f (t.charge ins) = (f t).charge ins)
    (hfault : resolutionFault i.mode i.arg s' = resolutionFault i.mode i.arg s)
    (hrecord : instrRecord i s' = instrRecord i s)
    (hbreak : mapNext f (haltOnBreak i s') = mapNext f (haltOnBreak i s))
    (hh : ∀ h, handlerOf i.op = some h →
      mapState f (h (instrRecord i s) (s'.atHandler i)) = mapState f (h (instrRecord i s) (s.atHandler i))) :
    mapNext f (exec i s') = mapNext f (exec i s) := by
  rcases break_or_handler i with hop | ⟨-, h, hop⟩
  · rw [exec_of_break hop, exec_of_break hop, hbreak]
  · rw [exec_of_handler hop, exec_of_handler hop, perform, perform, hfault, hrecord]
    cases resolutionFault i.mode i.arg s with
    | some e => rfl
    | none =>
      have hstart := hh h hop
      unfold State.atHandler at hstart
      rw [hrecord] at hstart
      exact mapNext_runHandler_congr (fun t => hcharge t _) hstart

/-- No reference handler reads the engine status (41_engine_step.md R178). -/
theorem handlerOf_setStatus {op : Op} {h : Handler} (hop : handlerOf op = some h) (ins : InstrRecord) (s : State)
    (e : EngineStatus) :
    mapState (·.setStatus .idle) (h ins (s.setStatus e)) = mapState (·.setStatus .idle) (h ins s) := by
  obtain ⟨_, _, _, _, loc, _, _, _⟩ := ins
  cases op <;> cases hop
  case BCC | BCS | BEQ | BNE | BMI | BPL | BVC | BVS =>
    simp only [handleBCC, handleBCS, handleBEQ, handleBNE, handleBMI, handleBPL, handleBVC, handleBVS, branch_eq]
    rfl
  all_goals cases loc <;> rfl

/-- No reference handler but that of PHP reads the decimal flag (43_ref_arith_logic.md R233). -/
theorem handlerOf_setD {op : Op} {h : Handler} (hop : handlerOf op = some h) (hphp : op ≠ .PHP) (ins : InstrRecord)
    (s : State) (b : Bool) :
    mapState (·.setD false) (h ins (s.setD b)) = mapState (·.setD false) (h ins s) := by
  obtain ⟨_, _, _, _, loc, _, _, _⟩ := ins
  cases op <;> cases hop
  case PHP => exact absurd rfl hphp
  case BCC | BCS | BEQ | BNE | BMI | BPL | BVC | BVS =>
    simp only [handleBCC, handleBCS, handleBEQ, handleBNE, handleBMI, handleBPL, handleBVC, handleBVS, branch_eq]
    rfl
  all_goals cases loc <;> rfl

/-- Settles O27: an iteration says when the engine halts, and no handler reads the status. -/
theorem engineStatusRule : Obligations.EngineStatusRule := by
  unfold Obligations.EngineStatusRule
  refine ⟨fun _ _ => rfl, fun s t hes h ht => ?_, fun s hes => ?_, fun i s e => ?_⟩
  · rw [stepIsEngineStep] at h
    exact (loopIteration_halts ref_wellFormed hes h ht).1
  · rw [stepIsEngineStep]
    exact loopIteration_halted .ref hes
  · exact mapNext_exec_congr (fun _ _ => rfl) rfl rfl rfl
      fun h hop => handlerOf_setStatus hop (instrRecord i s) (s.atHandler i) e

/-- Settles O37: resolution and every handler but PHP's leave the decimal flag unread. -/
theorem decimalFlagIsInert : Obligations.DecimalFlagIsInert := by
  unfold Obligations.DecimalFlagIsInert
  intro i s b hphp
  exact mapNext_exec_congr (fun _ _ => rfl) rfl rfl rfl
    fun h hop => handlerOf_setD hop hphp (instrRecord i s) (s.atHandler i) b

/-! ## Who writes the flags -/

/-- An operation leaves the flags it is not listed for (10_state.md R28). -/
structure FlagFrame (op : Op) (f f' : Flags) : Prop where
  c  : op ∉ carryWriters → f'.c = f.c
  zn : op ∉ zeroNegativeWriters → f'.z = f.z ∧ f'.n = f.n
  v  : op ∉ overflowWriters → f'.v = f.v
  i  : op ∉ interruptWriters → f'.i = f.i
  d  : op ∉ decimalWriters → f'.d = f.d

theorem FlagFrame.refl (op : Op) (f : Flags) : FlagFrame op f f :=
  ⟨fun _ => rfl, fun _ => ⟨rfl, rfl⟩, fun _ => rfl, fun _ => rfl, fun _ => rfl⟩

theorem FlagFrame.withZN {op : Op} (f : Flags) (r : Byte) (h : op ∈ zeroNegativeWriters) :
    FlagFrame op f (f.withZN r) :=
  ⟨fun _ => rfl, fun hn => absurd h hn, fun _ => rfl, fun _ => rfl, fun _ => rfl⟩

/-- The compares and shifts write C beside Z and N. -/
theorem FlagFrame.withCZN {op : Op} (f : Flags) (b : Bool) (r : Byte) (hc : op ∈ carryWriters)
    (hzn : op ∈ zeroNegativeWriters) : FlagFrame op f (({ f with c := b } : Flags).withZN r) :=
  ⟨fun hn => absurd hc hn, fun hn => absurd hzn hn, fun _ => rfl, fun _ => rfl, fun _ => rfl⟩

/-- PLP and RTI are listed for every flag. -/
theorem FlagFrame.all {op : Op} (f f' : Flags) (hop : op = .PLP ∨ op = .RTI) : FlagFrame op f f' := by
  rcases hop with rfl | rfl <;>
    exact ⟨fun h => absurd (by decide) h, fun h => absurd (by decide) h, fun h => absurd (by decide) h,
      fun h => absurd (by decide) h, fun h => absurd (by decide) h⟩

/-- Which flags each reference handler writes. -/
theorem handlerOf_flags {op : Op} {h : Handler} {ins : InstrRecord} {s u : State} (hop : handlerOf op = some h)
    (hu : h ins s = .ok u) : FlagFrame op s.flags u.flags := by
  cases op <;> cases hop <;> cases hu
  case LDA | LDX | LDY | TAX | TAY | TXA | TYA | TSX | AND | ORA | EOR | INX | INY | DEX | DEY | PLA =>
    exact .withZN _ _ (by decide)
  case INC | DEC =>
    rw [State.setZN_eq, State.setFlags_flags, operandWrite_flags]
    exact .withZN _ _ (by decide)
  case CMP | CPX | CPY => exact .withCZN _ _ _ (by decide) (by decide)
  case ASL | LSR | ROL | ROR =>
    rw [shiftOperand, State.setZN_eq, State.setFlags_flags, State.setC_eq, State.setFlags_flags, operandWrite_flags]
    exact .withCZN _ _ _ (by decide) (by decide)
  case ADC | SBC =>
    exact ⟨fun hn => absurd (by decide) hn, fun hn => absurd (by decide) hn, fun hn => absurd (by decide) hn,
      fun _ => rfl, fun _ => rfl⟩
  case BIT =>
    exact ⟨fun _ => rfl, fun hn => absurd (by decide) hn, fun hn => absurd (by decide) hn, fun _ => rfl, fun _ => rfl⟩
  case CLC | SEC =>
    exact ⟨fun hn => absurd (by decide) hn, fun _ => ⟨rfl, rfl⟩, fun _ => rfl, fun _ => rfl, fun _ => rfl⟩
  case CLI | SEI =>
    exact ⟨fun _ => rfl, fun _ => ⟨rfl, rfl⟩, fun _ => rfl, fun hn => absurd (by decide) hn, fun _ => rfl⟩
  case CLD | SED =>
    exact ⟨fun _ => rfl, fun _ => ⟨rfl, rfl⟩, fun _ => rfl, fun _ => rfl, fun hn => absurd (by decide) hn⟩
  case CLV =>
    exact ⟨fun _ => rfl, fun _ => ⟨rfl, rfl⟩, fun hn => absurd (by decide) hn, fun _ => rfl, fun _ => rfl⟩
  case PLP | RTI => exact .all _ _ (by decide)
  case STA | STX | STY =>
    rw [operandWrite_flags]
    exact .refl _ _
  case BCC | BCS | BEQ | BNE | BMI | BPL | BVC | BVS =>
    rw [branch_eq]
    exact .refl _ _
  all_goals exact .refl _ _

/-- Settles O38: charging cycles and advancing PC touch no flag, so the handlers decide. -/
theorem flagsChangeOnlyByTheirWriters : Obligations.FlagsChangeOnlyByTheirWriters := by
  unfold Obligations.FlagsChangeOnlyByTheirWriters
  intro i s t h
  have hframe : FlagFrame i.op s.flags t.flags := by
    rcases exec_next h with ⟨-, rfl⟩ | ⟨-, hd, u, hop, hu, rfl⟩
    · exact .refl _ _
    · exact (handlerOf_flags hop hu : FlagFrame i.op (s.atHandler i).flags u.flags)
  obtain ⟨hc, hzn, hv, hi, hd⟩ := hframe
  exact ⟨hc, hzn, hv, hi, hd⟩

/-! ## Who writes the registers -/

/-- The operand of an operation that writes it has an address, outside accumulator mode (30_encoding.md R112). -/
theorem exists_addr_of_writesOperand {i : Instr} (hw : writesOperand i.op = true) (hm : i.mode ≠ .ACC) (s : State) :
    ∃ a, (instrRecord i s).loc = .addr a := by
  have hmode : i.mode.noAddress = false := by
    cases i <;> first | rfl | exact absurd rfl hm | cases hw
  have hloc : ((instrRecord i s).loc == .none) = false := (resolveLoc_none_iff i.mode i.arg s).trans hmode
  cases h : (instrRecord i s).loc with
  | none => rw [h] at hloc; cases hloc
  | addr a => exact ⟨a, rfl⟩

/-- Only the shifts and rotates have an accumulator row (30_encoding.md R112). -/
theorem op_of_mode_acc {i : Instr} (h : i.mode = .ACC) : i.op ∈ [Op.ASL, .LSR, .ROL, .ROR] := by
  cases i
  case aslAcc | lsrAcc | rolAcc | rorAcc => decide
  all_goals cases h

/-- An operation leaves the registers it is not listed for, A where its operand is no accumulator. -/
structure RegisterFrame (op : Op) (ins : InstrRecord) (s u : State) : Prop where
  a  : op ∉ accumulatorWriters → (writesOperand op = true → ∃ a, ins.loc = .addr a) → u.a = s.a
  x  : op ∉ xWriters → u.x = s.x
  y  : op ∉ yWriters → u.y = s.y
  sp : op ∉ stackPointerWriters → u.sp = s.sp
  pc : op ∉ pcWriters → u.pc = s.pc

/-- An operand write to an address writes no register. -/
theorem operandWrite_registerFrame {op : Op} {ins : InstrRecord} {s u : State} {v : Byte} (hw : writesOperand op = true)
    (ha : u.a = (operandWrite ins v s).a) (hx : u.x = (operandWrite ins v s).x) (hy : u.y = (operandWrite ins v s).y)
    (hsp : u.sp = (operandWrite ins v s).sp) (hpc : u.pc = (operandWrite ins v s).pc) : RegisterFrame op ins s u := by
  refine ⟨fun _ hloc => ?_, fun _ => by simp [hx], fun _ => by simp [hy], fun _ => by simp [hsp],
    fun _ => by simp [hpc]⟩
  obtain ⟨a, ha'⟩ := hloc hw
  rw [ha, operandWrite_addr ha', State.writeByte_a]

/-- Which registers each reference handler writes. -/
theorem handlerOf_registers {op : Op} {h : Handler} {ins : InstrRecord} {s u : State} (hop : handlerOf op = some h)
    (hu : h ins s = .ok u) : RegisterFrame op ins s u := by
  cases op <;> cases hop <;> cases hu
  case LDA | TXA | TYA | ADC | SBC | AND | ORA | EOR =>
    exact ⟨fun hn => absurd (by decide) hn, fun _ => rfl, fun _ => rfl, fun _ => rfl, fun _ => rfl⟩
  case PLA =>
    exact ⟨fun hn => absurd (by decide) hn, fun _ => rfl, fun _ => rfl, fun hn => absurd (by decide) hn, fun _ => rfl⟩
  case LDX | TAX | TSX | INX | DEX =>
    exact ⟨fun _ _ => rfl, fun hn => absurd (by decide) hn, fun _ => rfl, fun _ => rfl, fun _ => rfl⟩
  case LDY | TAY | INY | DEY =>
    exact ⟨fun _ _ => rfl, fun _ => rfl, fun hn => absurd (by decide) hn, fun _ => rfl, fun _ => rfl⟩
  case TXS | PHA | PHP | PLP =>
    exact ⟨fun _ _ => rfl, fun _ => rfl, fun _ => rfl, fun hn => absurd (by decide) hn, fun _ => rfl⟩
  case JSR | RTS | RTI =>
    exact ⟨fun _ _ => rfl, fun _ => rfl, fun _ => rfl, fun hn => absurd (by decide) hn, fun hn => absurd (by decide) hn⟩
  case JMP =>
    exact ⟨fun _ _ => rfl, fun _ => rfl, fun _ => rfl, fun _ => rfl, fun hn => absurd (by decide) hn⟩
  case BCC | BCS | BEQ | BNE | BMI | BPL | BVC | BVS =>
    rw [branch_eq]
    exact ⟨fun _ _ => rfl, fun _ => rfl, fun _ => rfl, fun _ => rfl, fun hn => absurd (by decide) hn⟩
  case STA | STX | STY | INC | DEC | ASL | LSR | ROL | ROR =>
    exact operandWrite_registerFrame rfl rfl rfl rfl rfl rfl
  all_goals exact ⟨fun _ _ => rfl, fun _ => rfl, fun _ => rfl, fun _ => rfl, fun _ => rfl⟩

/-- Settles O39: the handlers decide, from the state with PC advanced. -/
theorem registersChangeOnlyByTheirWriters : Obligations.RegistersChangeOnlyByTheirWriters := by
  unfold Obligations.RegistersChangeOnlyByTheirWriters
  intro i s t h
  rcases exec_next h with ⟨hop, rfl⟩ | ⟨hop, hd, u, hh, hu, rfl⟩
  · exact ⟨fun _ _ => rfl, fun _ => rfl, fun _ => rfl, fun _ => rfl, fun hn => absurd (by rw [hop]; decide) hn,
      fun _ => rfl⟩
  · obtain ⟨ha, hx, hy, hsp, hpc⟩ := handlerOf_registers hh hu
    exact ⟨fun hn hm => ha hn fun hw => exists_addr_of_writesOperand hw hm s, hx, hy, hsp, hpc,
      fun hb => absurd hb hop⟩

/-! ## Where memory is stored to -/

/-- Memory is written by operand writes and pushes alone. -/
theorem handlerOf_mem {op : Op} {h : Handler} {ins : InstrRecord} {s u : State} (hop : handlerOf op = some h)
    (hu : h ins s = .ok u) (hoperand : writesOperand op = false) (hpush : op ∉ [Op.PHA, .PHP, .JSR]) :
    u.mem = s.mem := by
  cases op <;> cases hop <;> cases hu
  case STA | STX | STY | INC | DEC | ASL | LSR | ROL | ROR => cases hoperand
  case PHA | PHP | JSR => exact absurd (by decide) hpush
  case BCC | BCS | BEQ | BNE | BMI | BPL | BVC | BVS => rw [branch_eq]; rfl
  all_goals rfl

/-- An operation that writes its operand writes no other cell. -/
theorem handlerOf_operand_cell {op : Op} {h : Handler} {ins : InstrRecord} {s u : State} (hop : handlerOf op = some h)
    (hu : h ins s = .ok u) (hw : writesOperand op = true) {b : Word} (hb : ∀ a, ins.loc = .addr a → b ≠ a) :
    u.cell b = s.cell b := by
  have hwrite (v : Byte) : (operandWrite ins v s).cell b = s.cell b := by
    cases hloc : ins.loc with
    | none => rw [operandWrite_none hloc, State.cell_setA]
    | addr a => rw [operandWrite_addr hloc, State.cell_writeByte, if_neg (hb a hloc)]
  cases op
  case STA | STX | STY | INC | DEC | ASL | LSR | ROL | ROR => cases hop; cases hu; exact hwrite _
  all_goals cases hw

/-- A word push stores at the slot of the pointer and at the one below it (20_memory.md R81). -/
theorem State.cell_push16 (s : State) (w b : Word) :
    (s.push16 w).cell b = if b = stackAddr s.cfg (s.sp - 1) then loByte w
      else if b = stackAddr s.cfg s.sp then hiByte w else s.cell b := by
  rw [State.push16_eq, State.cell_push, State.cell_push]
  rfl

/-- The operand's address is the store target of an operation that writes its operand. -/
theorem storeTargets_of_writesOperand {i : Instr} (hw : writesOperand i.op = true) {s : State} {a : Word}
    (hloc : (instrRecord i s).loc = .addr a) : storeTargets i s = [a] := by
  unfold storeTargets
  split
  case h_1 hop => rw [hop] at hw; cases hw
  case h_2 hop => rw [hop] at hw; cases hw
  case h_3 hop => rw [hop] at hw; cases hw
  case h_4 => rw [if_pos hw, hloc]

/-- Settles O40: operand writes, the two pushes, JSR, and no other operation store. -/
theorem memoryChangesOnlyAtStoreTargets : Obligations.MemoryChangesOnlyAtStoreTargets := by
  unfold Obligations.MemoryChangesOnlyAtStoreTargets
  intro i s t h b hb
  rcases exec_next h with ⟨-, rfl⟩ | ⟨-, hd, u, hh, hu, rfl⟩
  · rfl
  · show u.cell b = s.cell b
    by_cases hw : writesOperand i.op = true
    · exact handlerOf_operand_cell hh hu hw fun a hloc hba => hb (by
        rw [storeTargets_of_writesOperand hw hloc, hba]
        exact List.mem_singleton_self a)
    · by_cases hpush : i.op ∈ [Op.PHA, .PHP, .JSR]
      · simp only [List.mem_cons, List.not_mem_nil, or_false] at hpush
        rcases hpush with hop | hop | hop <;> rw [hop] at hh <;> cases hh <;> cases hu <;>
          simp only [storeTargets, hop, List.mem_cons, List.not_mem_nil, or_false, not_or] at hb
        · exact (State.cell_push _ _ b).trans (if_neg hb)
        · exact (State.cell_push _ _ b).trans (if_neg hb)
        · exact (State.cell_push16 _ _ b).trans ((if_neg hb.2).trans (if_neg hb.1))
      · rw [State.cell, handlerOf_mem hh hu (Bool.not_eq_true _ ▸ hw) hpush]
        rfl

end Sys2Proof.Machine
end

section
/-! The status byte both ways, reads after writes, the stack as a last-in first-out store, the resolver mode by mode,
and the operand accessor: the obligations of 10_state.md, 20_memory.md and 40_addressing_modes.md. -/

namespace Sys2Proof.Machine

/-! ## The status byte -/

theorem decodeStatus_encodeStatus (f : Flags) (ctx : Bool) : decodeStatus (encodeStatus f ctx) = f := by
  simp only [decodeStatus, getLsbD_encodeStatus]
  rfl

/-- Encoding a decoded byte forces bit 5 and bit 4 (10_state.md R37). -/
theorem encodeStatus_decodeStatus (b : Byte) (ctx : Bool) :
    encodeStatus (decodeStatus b) ctx = (b &&& 0xCF) ||| 0x20 ||| (if ctx then 0x10 else 0) := by
  apply BitVec.eq_of_getLsbD_eq
  intro k hk
  rw [getLsbD_encodeStatus]
  cases ctx <;> interval_cases k <;> simp [decodeStatus]

/-- Settles O6: bits 5 and 4 of an encoded byte are 1 and the context, whatever the flags. -/
theorem statusRoundTrip : Obligations.StatusRoundTrip := by
  unfold Obligations.StatusRoundTrip
  refine ⟨decodeStatus_encodeStatus, fun b ctx => ⟨encodeStatus_decodeStatus b ctx, fun hbits heq => ?_⟩⟩
  have hbit := getLsbD_encodeStatus (decodeStatus b) ctx
  rw [heq] at hbit
  rcases hbits with h5 | h4
  · exact Bool.false_ne_true (h5.symm.trans (hbit 5))
  · exact h4 (hbit 4)

/-! ## Reads after writes -/

/-- A read after a write returns the byte written where it uses the written cell (20_memory.md R62, R63). -/
theorem State.readByte_writeByte (s : State) (a : Word) (v : Byte) (b : Word) :
    (s.writeByte a v).readByte b = if eff b = a then v else s.readByte b :=
  s.cell_writeByte a v (eff b)

/-- No read uses a cell in the mirrored range (20_memory.md R64). -/
theorem eff_ne_of_mirrored {a : Word} (hlow : 0x0800 ≤ a) (hhigh : a < 0x2000) (b : Word) : eff b ≠ a := by
  rintro rfl
  have hplain := eff_plain b
  bv_omega

/-- The aliases of an address below 0x0800 (20_memory.md R65). -/
theorem eff_alias {a : Word} (ha : a.toNat < 0x0800) {k : Nat} (hk : k < 4) :
    eff (a + BitVec.ofNat 16 (0x0800 * k)) = a := by
  apply BitVec.eq_of_toNat_eq
  have hsum : (a + BitVec.ofNat 16 (0x0800 * k)).toNat = a.toNat + 0x0800 * k := by
    rw [BitVec.toNat_add, BitVec.toNat_ofNat]
    omega
  rw [toNat_eff, hsum, if_pos (by omega)]
  omega

/-- Settles O10: whether a read sees a write is whether the cell it uses is the one written. -/
theorem writeThenRead : Obligations.WriteThenRead := by
  unfold Obligations.WriteThenRead
  intro s a v
  refine ⟨fun hplain => ?_, fun hlow hhigh b => ?_, fun hlow k hk => ?_⟩
  · rw [State.readByte_writeByte, if_pos (eff_of_plain (by bv_omega))]
  · rw [State.readByte_writeByte, if_neg (eff_ne_of_mirrored hlow hhigh b)]
  · rw [State.readByte_writeByte, if_pos (eff_alias hlow hk)]

/-- Settles O12: the position after 0xFFFF is 0x0000, and neither is mirrored to another cell. -/
theorem topOfMemoryPolicy : Obligations.TopOfMemoryPolicy := by
  unfold Obligations.TopOfMemoryPolicy
  intro s w
  constructor
  · intro hwrap
    have hno : wordFaults s.cfg 0xFFFF = false := wordFaults_eq_false (.inl hwrap)
    have hw : s.writeWord 0xFFFF w = .ok ((s.writeByte 0xFFFF (loByte w)).writeByte 0x0000 (hiByte w)) := by
      rw [State.writeWord, hno]
      rfl
    refine ⟨by rw [State.readWord, hno]; rfl, _, hw, ?_⟩
    simp only [State.cell_writeByte]
    exact ⟨rfl, rfl, fun b htop hzero => by rw [if_neg hzero, if_neg htop]⟩
  · intro hfault
    have hyes : wordFaults s.cfg 0xFFFF = true := (wordFaults_iff _ _).2 ⟨rfl, hfault⟩
    exact ⟨by rw [State.readWord, if_pos hyes], by rw [State.writeWord, if_pos hyes]⟩

/-! ## The stack -/

/-- Settles O14: on an aligned page the two slots differ, so the second push leaves the first byte. -/
theorem wordPushPlacement : Obligations.WordPushPlacement := by
  unfold Obligations.WordPushPlacement
  intro s w haligned
  have hslots : stackAddr s.cfg s.sp ≠ stackAddr s.cfg (s.sp - 1) := by
    rw [Ne, stackAddr_inj haligned]
    bv_omega
  refine ⟨?_, ?_, fun b hhigh hlow => ?_, ?_⟩
  · exact (s.cell_push16 w _).trans ((if_neg hslots).trans (if_pos rfl))
  · exact (s.cell_push16 w _).trans (if_pos rfl)
  · exact (s.cell_push16 w b).trans ((if_neg hlow).trans (if_neg hhigh))
  · have hsp : s.sp - 1 - 1 = s.sp - 2 := by bv_omega
    rw [← hsp]
    rfl

/-- What an admissible configuration says of the stack page (00_scope.md R7 (a), (b)). -/
theorem stackBase_of_admissible {cfg : Config} (h : cfg.admissible = true) :
    loByte cfg.stackBase = 0 ∧ plainAddress cfg.stackBase = true := by
  simp only [Config.admissible, Bool.and_eq_true, beq_iff_eq] at h
  obtain ⟨⟨⟨⟨haligned, hbase⟩, -⟩, -⟩, -⟩ := h
  exact ⟨haligned, hbase⟩

section Stack
variable {s : State} (hadm : s.cfg.admissible = true)
include hadm

/-- On an admissible configuration a read of a slot sees the last byte pushed there (20_memory.md R83). -/
theorem State.readByte_push (v p : Byte) :
    (s.push v).readByte (stackAddr s.cfg p) = if p = s.sp then v else s.readByte (stackAddr s.cfg p) := by
  obtain ⟨haligned, hplain⟩ := stackBase_of_admissible hadm
  rw [State.readByte, State.readByte, eff_stackAddr haligned hplain, State.cell_push]
  simp only [stackAddr_inj haligned]

/-- A pop after a push returns the byte (20_memory.md R83). -/
theorem State.pop_push (v : Byte) : (s.push v).pop = (v, (s.push v).setSP s.sp) := by
  have hsp : s.sp - 1 + 1 = s.sp := by bv_omega
  rw [State.pop_eq, State.push_sp, hsp, State.push_cfg, State.readByte_push hadm, if_pos rfl]

/-- A word pop after a word push returns the word and the pointer (20_memory.md R83). -/
theorem State.pop16_push16 (w : Word) : (s.push16 w).pop16.1 = w ∧ (s.push16 w).pop16.2.sp = s.sp := by
  have hlow := State.pop_push (s := s.push (hiByte w)) hadm (loByte w)
  have hsp : s.sp - 1 + 1 = s.sp := by bv_omega
  have hne : s.sp ≠ s.sp - 1 := by bv_omega
  have hhigh : (s.push16 w).readByte (stackAddr s.cfg s.sp) = hiByte w := by
    rw [State.push16_eq]
    refine (State.readByte_push (s := s.push (hiByte w)) hadm (loByte w) s.sp).trans ((if_neg hne).trans ?_)
    exact (State.readByte_push hadm (hiByte w) s.sp).trans (if_pos rfl)
  rw [State.pop16, State.push16_eq, hlow, State.pop_eq]
  simp only [State.setSP_sp, State.setSP_cfg, State.push_cfg, State.push_sp, hsp]
  refine ⟨?_, trivial⟩
  rw [show ((s.push (hiByte w)).push (loByte w)).setSP (s.sp - 1) = (s.push16 w).setSP (s.sp - 1) from rfl,
    State.readByte_congr (State.setSP_mem (s.push16 w) _), hhigh, mkWord_loByte_hiByte]

end Stack

theorem pushAll_append (bytes : List Byte) (v : Byte) (s : State) :
    pushAll (bytes ++ [v]) s = (pushAll bytes s).push v := by
  induction bytes generalizing s with
  | nil => rfl
  | cons b rest ih => exact ih (s.push b)

@[simp] theorem pushAll_cfg (bytes : List Byte) (s : State) : (pushAll bytes s).cfg = s.cfg := by
  induction bytes generalizing s with
  | nil => rfl
  | cons b rest ih => exact ih (s.push b)

theorem pushAll_sp (bytes : List Byte) (s : State) : (pushAll bytes s).sp = s.sp - BitVec.ofNat 8 bytes.length := by
  induction bytes generalizing s with
  | nil => simp [pushAll]
  | cons b rest ih =>
    rw [pushAll, ih, State.push_sp, List.length_cons]
    bv_omega

theorem popMany_sp (n : Nat) (s : State) : (popMany n s).2.sp = s.sp + BitVec.ofNat 8 n := by
  induction n generalizing s with
  | zero => simp [popMany]
  | succ n ih =>
    rw [popMany, ih, State.pop_eq, State.setSP_sp]
    bv_omega

/-- The bytes of `n` pops are those of the `n` slots above the pointer (20_memory.md R80). -/
theorem popMany_congr {n : Nat} {s t : State} (hcfg : t.cfg = s.cfg) (hsp : t.sp = s.sp)
    (hread : ∀ k < n, t.readByte (stackAddr s.cfg (s.sp + 1 + BitVec.ofNat 8 k)) =
      s.readByte (stackAddr s.cfg (s.sp + 1 + BitVec.ofNat 8 k))) : (popMany n t).1 = (popMany n s).1 := by
  induction n generalizing s t with
  | zero => rfl
  | succ n ih =>
    have hfirst := hread 0 (Nat.succ_pos n)
    rw [show s.sp + 1 + BitVec.ofNat 8 0 = s.sp + 1 from BitVec.add_zero _] at hfirst
    simp only [popMany, State.pop_eq, hcfg, hsp]
    rw [hfirst, ih (s := s.setSP (s.sp + 1)) (t := t.setSP (s.sp + 1)) hcfg rfl fun k hk => ?_]
    have hnext : s.sp + 1 + 1 + BitVec.ofNat 8 k = s.sp + 1 + BitVec.ofNat 8 (k + 1) := by bv_omega
    have hk' := hread (k + 1) (Nat.succ_lt_succ hk)
    rw [← hnext] at hk'
    exact hk'

/-- The bytes of as many pops as pushes, by induction on the last byte pushed: popping it leaves the slots of the bytes
before it, of which there are at most 255 (20_memory.md R83). -/
theorem popMany_pushAll {s : State} (hadm : s.cfg.admissible = true) (bytes : List Byte) (hlen : bytes.length ≤ 256) :
    (popMany bytes.length (pushAll bytes s)).1 = bytes.reverse := by
  induction bytes using List.reverseRecOn with
  | nil => rfl
  | append_singleton bytes v ih =>
    rw [List.length_append, List.length_singleton] at hlen ⊢
    have hadm' : (pushAll bytes s).cfg.admissible = true := by rw [pushAll_cfg]; exact hadm
    rw [pushAll_append, popMany, State.pop_push hadm', List.reverse_append, List.reverse_singleton,
      List.singleton_append, ← ih (by omega)]
    refine congrArg (v :: ·) (popMany_congr rfl rfl fun k hk => ?_)
    have hother : (pushAll bytes s).sp + 1 + BitVec.ofNat 8 k ≠ (pushAll bytes s).sp := by bv_omega
    exact (State.readByte_push hadm' v _).trans (if_neg hother)

/-- Settles O15: the pointer moves down and up alike, and the bytes are those of `popMany_pushAll`. -/
theorem stackIsLifo : Obligations.StackIsLifo := by
  unfold Obligations.StackIsLifo
  refine fun s hadm => ⟨fun bytes hlen => ⟨popMany_pushAll hadm bytes hlen, ?_⟩, State.pop16_push16 hadm⟩
  rw [popMany_sp, pushAll_sp, BitVec.sub_add_cancel]

/-! ## The resolver and the operand accessor -/

/-- `resolve` where neither the operand fetch nor the pointer read faults (40_addressing_modes.md R131). -/
theorem resolve_of_operandArg {mode : Mode} {pc : Word} {s : State} {arg : Word} (harg : operandArg mode pc s = .ok arg)
    (hf : resolutionFault mode arg s = none) :
    resolve mode pc s = .ok ⟨(resolveLoc mode arg s).1, arg, mode.len, (resolveLoc mode arg s).2⟩ := by
  simp only [resolve, harg, hf]

/-- The pointer read of IND faults only at the top of memory (40_addressing_modes.md R141). -/
theorem resolutionFault_ind {arg : Word} {s : State} (h : s.cfg.topWrap = .wrap ∨ arg ≠ 0xFFFF) :
    resolutionFault .IND arg s = none := by
  simp [resolutionFault, wordFaults_eq_false h]

/-- A word read that does not fault (20_memory.md R66). -/
theorem State.readWord_ok {s : State} {pos : Word} (h : s.cfg.topWrap = .wrap ∨ pos ≠ 0xFFFF) :
    s.readWord pos = .ok (s.wordAt pos) := by
  rw [State.readWord, wordFaults_eq_false h, if_neg Bool.false_ne_true]

/-- Settles O16: the argument is the byte or the word after the opcode, and its low byte is the operand byte again. -/
theorem resolverByMode : Obligations.ResolverByMode := by
  unfold Obligations.ResolverByMode
  intro s pc
  refine ⟨rfl, rfl, rfl, ?zp, ?zpx, ?zpy, ?izx, ?izy, rfl, fun hfetch => ⟨?abs, ?abx, ?aby, fun hpointer => ?ind⟩⟩
  case abs | abx | aby =>
    exact resolve_of_operandArg (State.readWord_ok hfetch) (resolutionFault_of_ne_ind (by decide) _ _)
  case ind => exact resolve_of_operandArg (State.readWord_ok hfetch) (resolutionFault_ind hpointer)
  case zp | zpx | zpy | izx | izy =>
    rw [resolve_of_operandArg rfl (resolutionFault_of_ne_ind (by decide) _ _)]
    simp only [resolveLoc, indexedAddress, State.zeroPageWord, BitVec.truncate_eq_setWidth, loByte_setWidth]
    rfl

/-- All the ways `resolve` faults (40_addressing_modes.md R146). -/
theorem resolve_error_iff (mode : Mode) (pc : Word) (s : State) (f : Fault) :
    resolve mode pc s = .error f ↔ operandArg mode pc s = .error f ∨
      ∃ arg, operandArg mode pc s = .ok arg ∧ resolutionFault mode arg s = some f := by
  unfold resolve
  cases operandArg mode pc s with
  | error g => simp
  | ok arg => cases h : resolutionFault mode arg s <;> simp [h]

theorem resolutionFault_eq_some_iff (mode : Mode) (arg : Word) (s : State) (f : Fault) :
    resolutionFault mode arg s = some f ↔
      mode = .IND ∧ arg = 0xFFFF ∧ s.cfg.topWrap = .fault ∧ f = .memory 0xFFFF := by
  simp only [resolutionFault, Option.ite_none_right_eq_some, Bool.and_eq_true, beq_iff_eq, wordFaults_iff,
    Option.some.injEq]
  constructor
  · rintro ⟨⟨hm, rfl, hw⟩, rfl⟩
    exact ⟨hm, rfl, hw, rfl⟩
  · rintro ⟨hm, rfl, hw, rfl⟩
    exact ⟨⟨hm, rfl, hw⟩, rfl⟩

theorem State.readWord_eq_error_iff (s : State) (pos : Word) (f : Fault) :
    s.readWord pos = .error f ↔ f = .memory 0xFFFF ∧ pos = 0xFFFF ∧ s.cfg.topWrap = .fault := by
  unfold State.readWord
  by_cases h : wordFaults s.cfg pos = true
  · rw [if_pos h]
    obtain ⟨rfl, hw⟩ := (wordFaults_iff _ _).1 h
    simp [hw, eq_comm]
  · rw [if_neg h]
    rw [wordFaults_iff] at h
    simpa using fun _ hpos => not_and.1 h hpos

/-- A mode with a two-byte operand faults in its operand fetch, or, if it is IND, in its pointer read (R141, R146). -/
theorem resolve_word_error_iff {mode : Mode} {pc : Word} {s : State} {f : Fault}
    (hread : operandArg mode pc s = s.readWord (pc + 1)) :
    resolve mode pc s = .error f ↔ f = .memory 0xFFFF ∧ s.cfg.topWrap = .fault ∧
      (pc = 0xFFFE ∨ mode = .IND ∧ s.wordAt (pc + 1) = 0xFFFF) := by
  have htop : pc + 1 = 0xFFFF ↔ pc = 0xFFFE := by constructor <;> intro h <;> bv_omega
  rw [resolve_error_iff, hread, State.readWord_eq_error_iff, htop]
  simp only [resolutionFault_eq_some_iff]
  constructor
  · rintro (⟨hf, hpc, hw⟩ | ⟨arg, harg, hm, hpointer, hw, hf⟩)
    · exact ⟨hf, hw, .inl hpc⟩
    · rcases s.readWord_cases (pc + 1) with ⟨-, hr⟩ | ⟨-, hr⟩ <;> rw [hr] at harg
      · cases harg
      · exact ⟨hf, hw, .inr ⟨hm, (Except.ok.inj harg).trans hpointer⟩⟩
  · rintro ⟨hf, hw, hcase⟩
    by_cases hpc : pc = 0xFFFE
    · exact .inl ⟨hf, hpc, hw⟩
    · obtain ⟨hm, hpointer⟩ := hcase.resolve_left hpc
      exact .inr ⟨_, State.readWord_ok (.inr (mt htop.1 hpc)), hm, hpointer, hw, hf⟩

/-- Settles O17: only the modes with a two-byte operand read a word. -/
theorem resolverFaults : Obligations.ResolverFaults := by
  unfold Obligations.ResolverFaults
  intro mode pc s f
  cases mode
  case ABS | ABX | ABY | IND =>
    rw [resolve_word_error_iff rfl]
    simp [State.wordAt]
  all_goals simp [resolve_error_iff, operandArg, resolutionFault_eq_some_iff]

/-- Settles O18: the location decides between a cell and A; only reading looks at the mode. -/
theorem operandAccessor : Obligations.OperandAccessor := by
  unfold Obligations.OperandAccessor
  intro ins s v
  constructor
  · intro a hloc
    rw [operandWrite_addr hloc]
    exact ⟨operandRead_addr hloc s, .of_cell_eq (s.cell_writeByte a v), rfl⟩
  · intro hloc
    exact ⟨operandRead_none hloc s, operandWrite_none hloc v s⟩

end Sys2Proof.Machine
end

section
/-! Every instruction of the reference set completes with the effect its rule names: the obligations of files 42_ to
45_. An instruction answers the state its handler leaves with the cycles charged (`exec_of_op`); what remains is to
compare that with `retired`. -/

namespace Sys2Proof.Machine

/-- An instruction whose operation has that handler runs it and charges its cycles; JMP alone can fault before. -/
theorem exec_of_op {i : Instr} {op : Op} {h : Handler} {s u : State} (hop : i.op = op) (hh : handlerOf op = some h)
    (hj : op ≠ .JMP) (hu : h (instrRecord i s) (s.atHandler i) = .ok u) :
    exec i s = .next (u.charge (instrRecord i s)) := by
  subst hop
  exact exec_ok hh hj hu

/-! ## Loads, transfers, register steps, logic, flag operations, pulls -/

/-- Settles O41: the handler of each operation writes its register and SetZN. -/
theorem loadsComplete : Obligations.LoadsComplete := by
  unfold Obligations.LoadsComplete
  intro i s
  refine ⟨fun hop => ?_, fun hop => ?_, fun hop => ?_⟩
  · exact (exec_of_op hop rfl (by decide) rfl).trans rfl
  · exact (exec_of_op hop rfl (by decide) rfl).trans rfl
  · exact (exec_of_op hop rfl (by decide) rfl).trans rfl

/-- Settles O43: each handler, unfolded, is the record update. -/
theorem registerOperationsComplete : Obligations.RegisterOperationsComplete := by
  unfold Obligations.RegisterOperationsComplete
  exact fun s => ⟨rfl, rfl, rfl, rfl, rfl, rfl, rfl, rfl, rfl, rfl⟩

/-- Settles O46: one handler for each bitwise operation. -/
theorem logicComplete : Obligations.LogicComplete := by
  unfold Obligations.LogicComplete
  rintro i s r (⟨hop, rfl⟩ | ⟨hop, rfl⟩ | ⟨hop, rfl⟩)
  · exact (exec_of_op hop rfl (by decide) rfl).trans rfl
  · exact (exec_of_op hop rfl (by decide) rfl).trans rfl
  · exact (exec_of_op hop rfl (by decide) rfl).trans rfl

/-- Settles O47: the unsigned order of bytes is that of their naturals. -/
theorem comparesAndBitTestComplete : Obligations.ComparesAndBitTestComplete := by
  unfold Obligations.ComparesAndBitTestComplete
  intro i s
  refine ⟨?_, fun hop => (exec_of_op hop rfl (by decide) rfl).trans rfl⟩
  rintro reg (⟨hop, rfl⟩ | ⟨hop, rfl⟩ | ⟨hop, rfl⟩)
  · exact (exec_of_op hop rfl (by decide) rfl).trans rfl
  · exact (exec_of_op hop rfl (by decide) rfl).trans rfl
  · exact (exec_of_op hop rfl (by decide) rfl).trans rfl

/-- Settles O57: each handler, unfolded, is the record update of one flag. -/
theorem flagOperationsComplete : Obligations.FlagOperationsComplete := by
  unfold Obligations.FlagOperationsComplete
  exact fun s => ⟨rfl, rfl, rfl, rfl, rfl, rfl, rfl⟩

/-- Settles O56: a pop, then the write of A with SetZN, or of the flags. -/
theorem pullsComplete : Obligations.PullsComplete := by
  unfold Obligations.PullsComplete
  exact fun s => ⟨rfl, rfl⟩

/-! ## Addition and subtraction -/

/-- The common body of ADC and SBC with the numbers of the spec (43_ref_arith_logic.md R234). -/
theorem State.addToA_eq_record (s : State) (m : Byte) :
    s.addToA m =
      let n := s.a.toNat + m.toNat + (if s.flags.c then 1 else 0)
      let r := BitVec.ofNat 8 (n % 256)
      { s with
        a := r
        flags := { s.flags with
          c := decide (n > 255)
          v := decide (((s.a ^^^ r) &&& (m ^^^ r) &&& 0x80) ≠ 0)
          z := decide (r = 0)
          n := r.getLsbD 7 } } := by
  rw [State.addToA_eq, addWithCarry_eq, Bool.toNat, Bool.cond_eq_ite]
  rfl

/-- Settles O44: SBC is ADC of the complement. -/
theorem addSubtractComplete : Obligations.AddSubtractComplete := by
  unfold Obligations.AddSubtractComplete
  rintro i s m (⟨hop, rfl⟩ | ⟨hop, rfl⟩)
  · refine (exec_of_op hop rfl (by decide) rfl).trans ?_
    rw [State.addToA_eq_record]
    rfl
  · refine (exec_of_op hop rfl (by decide) rfl).trans ?_
    rw [State.addToA_eq_record]
    rfl

/-- Bit 7 of a byte is its sign: the byte is at least 128. -/
theorem getLsbD_seven (b : Byte) : b.getLsbD 7 = decide (128 ≤ b.toNat) := BitVec.msb_eq_decide b

/-- The signed value of a byte. -/
theorem toInt_byte (b : Byte) : b.toInt = if b.toNat < 128 then (b.toNat : Int) else b.toNat - 256 := by
  rw [BitVec.toInt_eq_toNat_cond]
  split <;> split <;> omega

/-- The overflow test looks at bit 7 alone (43_ref_arith_logic.md R231). -/
theorem and_0x80_ne_zero_iff (x : Byte) : x &&& 0x80 ≠ 0 ↔ x.getLsbD 7 = true := by
  constructor
  · intro h
    by_contra h7
    refine h (BitVec.eq_of_getLsbD_eq fun k hk => ?_)
    rw [Bool.not_eq_true] at h7
    interval_cases k <;> simp_all
  · intro h7 h
    have hbit : (x &&& 0x80).getLsbD 7 = (0 : Byte).getLsbD 7 := by rw [h]
    rw [BitVec.getLsbD_and, h7] at hbit
    exact absurd hbit (by decide)

/-- Both addends differ from the result in bit 7 exactly where the signed sum does not fit a byte. -/
theorem overflow_iff (a m : Byte) (c : Nat) (hc : c ≤ 1) :
    let r := BitVec.ofNat 8 ((a.toNat + m.toNat + c) % 256)
    (a ^^^ r) &&& (m ^^^ r) &&& 0x80 ≠ 0 ↔ a.toInt + m.toInt + c < -128 ∨ 127 < a.toInt + m.toInt + c := by
  intro r
  have ha := a.isLt
  have hm := m.isLt
  have hr : r.toNat = (a.toNat + m.toNat + c) % 256 := by
    rw [BitVec.toNat_ofNat, Nat.mod_mod]
  rw [and_0x80_ne_zero_iff]
  simp only [BitVec.getLsbD_and, BitVec.getLsbD_xor, Bool.and_eq_true, Bool.xor_iff_ne]
  simp only [getLsbD_seven, hr, ne_eq, decide_eq_decide, toInt_byte]
  split <;> split <;> omega

/-- Complementing a byte subtracts it from 255, signed as unsigned (43_ref_arith_logic.md R235). -/
theorem toNat_xor_0xFF (m : Byte) : (m ^^^ 0xFF).toNat = 255 - m.toNat := by
  rw [show (0xFF : Byte) = BitVec.allOnes 8 from rfl, BitVec.xor_allOnes, BitVec.toNat_not]

theorem toInt_xor_0xFF (m : Byte) : (m ^^^ 0xFF).toInt = -1 - m.toInt := by
  have := m.isLt
  rw [toInt_byte, toInt_byte, toNat_xor_0xFF]
  split <;> split <;> omega

/-- Settles O45: C and V of `addSubtractComplete` read as unsigned and signed order, for SBC of the complement. -/
theorem carryAndOverflowMeaning : Obligations.CarryAndOverflowMeaning := by
  unfold Obligations.CarryAndOverflowMeaning
  intro i s t h
  have ha := s.a.isLt
  have hm := (operandOf i s).isLt
  constructor
  · intro hop
    rw [addSubtractComplete i s _ (.inl ⟨hop, rfl⟩)] at h
    cases h
    have hv := overflow_iff s.a (operandOf i s) (if s.flags.c then 1 else 0) (by split <;> omega)
    simp only [decide_eq_true_eq, hv, BitVec.toNat_ofNat]
    cases s.flags.c <;> simp <;> omega
  · intro hop
    rw [addSubtractComplete i s _ (.inr ⟨hop, rfl⟩)] at h
    cases h
    have hv := overflow_iff s.a (operandOf i s ^^^ 0xFF) (if s.flags.c then 1 else 0) (by split <;> omega)
    simp only [decide_eq_true_eq, hv, BitVec.toNat_ofNat]
    simp only [toNat_xor_0xFF, toInt_xor_0xFF]
    cases s.flags.c <;> simp <;> omega

end Sys2Proof.Machine
end

section
/-! Stores, increments, decrements, shifts and rotates: the obligations on the operations that write their operand
(42_ref_load_store_transfer.md R204 to R206, 43_ref_arith_logic.md R243, R244, R249 to R253). -/

namespace Sys2Proof.Machine

/-! ## The state such an operation leaves -/

/-- The state after an instruction that stored `r` in cell `a` and left the flags `f`. -/
def stored (i : Instr) (s : State) (a : Word) (r : Byte) (f : Flags) : State :=
  { retired i s with mem := (s.writeByte a r).mem, flags := f }

theorem cell_stored (i : Instr) (s : State) (a : Word) (r : Byte) (f : Flags) (b : Word) :
    (stored i s a r f).cell b = if b = a then r else s.cell b :=
  s.cell_writeByte a r b

theorem storesOnly_stored (i : Instr) (s : State) (a : Word) (r : Byte) (f : Flags) :
    StoresOnly a r s (stored i s a r f) :=
  .of_cell_eq (cell_stored i s a r f)

theorem execStores_of_eq {i : Instr} {s : State} {a : Word} {r : Byte} {f : Flags}
    (h : exec i s = .next (stored i s a r f)) : ExecStores i s a r f :=
  ⟨_, h, storesOnly_stored i s a r f, rfl⟩

/-! ## Stores -/

/-- A store of a register, by the address of its operand. -/
theorem store_completes {i : Instr} {op : Op} {h : Handler} {s : State} {v : Byte} (hop : i.op = op)
    (hh : handlerOf op = some h) (hw : writesOperand op = true) (hm : i.mode ≠ .ACC)
    (hv : h (instrRecord i s) (s.atHandler i) = .ok (operandWrite (instrRecord i s) v (s.atHandler i))) :
    ∃ a t, (instrRecord i s).loc = .addr a ∧ exec i s = .next t ∧ StoresOnly a v s t ∧
      t = { retired i s with mem := t.mem } := by
  have hj : op ≠ .JMP := by rintro rfl; cases hw
  obtain ⟨a, hloc⟩ := exists_addr_of_writesOperand (hop ▸ hw) hm s
  have hexec := exec_of_op hop hh hj hv
  rw [operandWrite_addr hloc] at hexec
  exact ⟨a, stored i s a v s.flags, hloc, hexec, storesOnly_stored i s a v s.flags, rfl⟩

/-- Settles O42: the operand of a store has an address, and the handler writes its register there. -/
theorem storesComplete : Obligations.StoresComplete := by
  unfold Obligations.StoresComplete
  intro i s v hv
  have hm : i.mode ≠ .ACC := fun hm => by
    have hacc := op_of_mode_acc hm
    rcases hv with ⟨hop, -⟩ | ⟨hop, -⟩ | ⟨hop, -⟩ <;> rw [hop] at hacc <;> exact absurd hacc (by decide)
  rcases hv with ⟨hop, rfl⟩ | ⟨hop, rfl⟩ | ⟨hop, rfl⟩
  · exact store_completes hop rfl rfl hm rfl
  · exact store_completes hop rfl rfl hm rfl
  · exact store_completes hop rfl rfl hm rfl

/-! ## Operations that read and write their operand -/

/-- The operations that read and write their operand (43_ref_arith_logic.md R253). -/
def modifiesOperand : Op → Bool
  | .INC | .DEC | .ASL | .LSR | .ROL | .ROR => true
  | _ => false

/-- The modes whose address is read from memory (40_addressing_modes.md R141 to R143). -/
def readsPointer : Mode → Bool
  | .IND | .IZX | .IZY => true
  | _ => false

/-- In the other modes the address depends on the index registers alone. -/
theorem resolveLoc_congr {mode : Mode} (h : readsPointer mode = false) {s t : State} (hx : t.x = s.x) (hy : t.y = s.y)
    (arg : Word) : resolveLoc mode arg t = resolveLoc mode arg s := by
  cases mode
  case IND | IZX | IZY => cases h
  all_goals simp only [resolveLoc, hx, hy]

/-- An operation that reads and writes its operand has no row in a mode that reads a pointer (30_encoding.md R112). -/
theorem instrRecord_of_modifiesOperand {i : Instr} (h : modifiesOperand i.op = true) {s t : State} (hx : t.x = s.x)
    (hy : t.y = s.y) : instrRecord i t = instrRecord i s := by
  have hmode : readsPointer i.mode = false := by
    cases i <;> first | rfl | cases h
  unfold instrRecord
  rw [resolveLoc_congr hmode hx hy]

/-- A read of a mirrored address is a read of the bank cell (20_memory.md R62). -/
theorem State.readByte_mirrored (s : State) {a : Word} (hhigh : a < 0x2000) :
    s.readByte a = s.cell (a &&& 0x07FF) := by
  rw [State.readByte, eff, if_pos hhigh]

section Mirrored
variable {a : Word} (hlow : 0x0800 ≤ a) (hhigh : a < 0x2000)
include hlow hhigh

theorem bank_ne_of_mirrored : a &&& 0x07FF ≠ a := by
  have h := eff_ne_of_mirrored hlow hhigh a
  rwa [eff, if_pos hhigh] at h

/-- After a store to a mirrored address the operand is what it was (43_ref_arith_logic.md R253). -/
theorem operandOf_mirrored {i : Instr} {s t : State} (hmod : modifiesOperand i.op = true)
    (hloc : (instrRecord i s).loc = .addr a) (hx : t.x = s.x) (hy : t.y = s.y)
    (hcell : ∀ b, b ≠ a → t.cell b = s.cell b) :
    (instrRecord i t).loc = .addr a ∧ operandOf i t = operandOf i s := by
  have hrecord := instrRecord_of_modifiesOperand hmod hx hy
  refine ⟨by rw [hrecord, hloc], ?_⟩
  rw [operandOf, operandOf, hrecord, operandRead_addr hloc, operandRead_addr hloc]
  exact hcell _ (eff_ne_of_mirrored hlow hhigh a)

end Mirrored

/-! ## Increment and decrement -/

/-- INC and DEC store the changed operand (43_ref_arith_logic.md R243, R244). -/
theorem exec_incDec {i : Instr} {s : State} {a : Word} {r : Byte}
    (hr : i.op = .INC ∧ r = operandOf i s + 1 ∨ i.op = .DEC ∧ r = operandOf i s - 1)
    (hloc : (instrRecord i s).loc = .addr a) :
    exec i s = .next (stored i s a r { s.flags with z := decide (r = 0), n := r.getLsbD 7 }) := by
  rcases hr with ⟨hop, rfl⟩ | ⟨hop, rfl⟩
  · refine (exec_of_op hop rfl (by decide) rfl).trans ?_
    rw [operandWrite_addr hloc]
    rfl
  · refine (exec_of_op hop rfl (by decide) rfl).trans ?_
    rw [operandWrite_addr hloc]
    rfl

/-- Settles O48: on a mirrored address no read sees the store, so the operand is the same again. -/
theorem incrementDecrementComplete : Obligations.IncrementDecrementComplete := by
  unfold Obligations.IncrementDecrementComplete
  intro i s r hr
  have hmod : modifiesOperand i.op = true := by rcases hr with ⟨hop, -⟩ | ⟨hop, -⟩ <;> rw [hop] <;> rfl
  have hw : writesOperand i.op = true := by rcases hr with ⟨hop, -⟩ | ⟨hop, -⟩ <;> rw [hop] <;> rfl
  have hm : i.mode ≠ .ACC := fun hm => by
    have hacc := op_of_mode_acc hm
    rcases hr with ⟨hop, -⟩ | ⟨hop, -⟩ <;> rw [hop] at hacc <;> exact absurd hacc (by decide)
  obtain ⟨a, hloc⟩ := exists_addr_of_writesOperand hw hm s
  have hread : operandOf i s = s.readByte a := operandRead_addr hloc s
  refine ⟨a, _, hloc, ?_, exec_incDec hr hloc, storesOnly_stored _ _ _ _ _, rfl, fun hlow hhigh => ⟨?_, ?_, ?_⟩⟩
  · rw [← hread]
    rcases hr with ⟨hop, rfl⟩ | ⟨hop, rfl⟩
    · rw [if_pos hop]
    · rw [if_neg (by rw [hop]; decide)]
      bv_omega
  · rw [hread, s.readByte_mirrored hhigh]
  · rw [cell_stored, if_neg (bank_ne_of_mirrored hlow hhigh)]
  · obtain ⟨hloc', hsame⟩ := operandOf_mirrored (t := stored i s a r _) hlow hhigh hmod hloc rfl rfl
      (storesOnly_stored i s a r { s.flags with z := decide (r = 0), n := r.getLsbD 7 }).2
    exact execStores_of_eq (exec_incDec (by rw [hsame]; exact hr) hloc')

/-! ## Shifts and rotates -/

/-- The shift of each of the four operations (43_ref_arith_logic.md R249 to R252). -/
def shiftOf : Op → Byte → Bool → Shifted
  | .LSR => shiftRight
  | .ROL => rotateLeft
  | .ROR => rotateRight
  | _ => shiftLeft

/-- The four operations, whose handlers apply `shiftOf`. -/
def Shifts (op : Op) : Prop := handlerOf op = some fun ins s => .ok (shiftOperand (shiftOf op) ins s)

/-- The flags after a shift: C the bit that fell out, Z and N of the result. -/
def Flags.afterShift (f : Flags) (r : Shifted) : Flags :=
  { f with c := r.out, z := decide (r.result = 0), n := r.result.getLsbD 7 }

section Shift
variable {i : Instr} {s : State} (hshift : Shifts i.op) (hj : i.op ≠ .JMP)
include hshift hj

/-- In accumulator mode a shift writes A. -/
theorem exec_shift_acc (hloc : (instrRecord i s).loc = .none) :
    exec i s = .next { retired i s with
      a := (shiftOf i.op (operandOf i s) s.flags.c).result
      flags := s.flags.afterShift (shiftOf i.op (operandOf i s) s.flags.c) } := by
  refine (exec_of_op rfl hshift hj rfl).trans ?_
  rw [shiftOperand, operandWrite_none hloc]
  rfl

/-- In the other modes a shift stores its result. -/
theorem exec_shift_addr {a : Word} (hloc : (instrRecord i s).loc = .addr a) :
    exec i s = .next (stored i s a (shiftOf i.op (operandOf i s) s.flags.c).result
      (s.flags.afterShift (shiftOf i.op (operandOf i s) s.flags.c))) := by
  refine (exec_of_op rfl hshift hj rfl).trans ?_
  rw [shiftOperand, operandWrite_addr hloc]
  rfl

end Shift

/-- The bit that falls out does not depend on the carry. -/
theorem shiftOf_out (op : Op) (v : Byte) (c c' : Bool) : (shiftOf op v c).out = (shiftOf op v c').out := by
  cases op <;> rfl

/-- What the statement of the shifts says of the result and the bit that falls out, as the model computes them. -/
theorem shiftOf_eq {op : Op} {v r : Byte} {c out : Bool}
    (h : op = .ASL ∧ r.toNat = 2 * v.toNat % 256 ∧ out = v.getLsbD 7 ∨
      op = .LSR ∧ r.toNat = v.toNat / 2 ∧ out = v.getLsbD 0 ∨
      op = .ROL ∧ r.toNat = 2 * v.toNat % 256 + (if c then 1 else 0) ∧ out = v.getLsbD 7 ∨
      op = .ROR ∧ r.toNat = v.toNat / 2 + (if c then 128 else 0) ∧ out = v.getLsbD 0) :
    shiftOf op v c = ⟨r, out⟩ ∧ Shifts op ∧ op ≠ .JMP ∧ modifiesOperand op = true ∧ writesOperand op = true := by
  have heq {q : Shifted} (hr : q.result.toNat = r.toNat) (ho : q.out = out) : q = ⟨r, out⟩ := by
    rw [← BitVec.eq_of_toNat_eq hr, ← ho]
  rcases h with ⟨rfl, hr, ho⟩ | ⟨rfl, hr, ho⟩ | ⟨rfl, hr, ho⟩ | ⟨rfl, hr, ho⟩
  · exact ⟨heq (by rw [hr, Nat.mul_comm]; exact toNat_shiftLeft v c) ho.symm, rfl, by decide, rfl, rfl⟩
  · exact ⟨heq (by rw [hr]; exact toNat_shiftRight v c) ho.symm, rfl, by decide, rfl, rfl⟩
  · refine ⟨heq ?_ ho.symm, rfl, by decide, rfl, rfl⟩
    rw [hr, Nat.mul_comm]
    cases c <;> exact toNat_rotateLeft v _
  · refine ⟨heq ?_ ho.symm, rfl, by decide, rfl, rfl⟩
    rw [hr]
    cases c <;> exact toNat_rotateRight v _

/-- On a mirrored address a shift sees the same operand again after a store there, and shifts it with the carry it
finds (43_ref_arith_logic.md R253). -/
theorem exec_shift_again {i : Instr} {s t : State} {a : Word} (hshift : Shifts i.op) (hj : i.op ≠ .JMP)
    (hmod : modifiesOperand i.op = true) (hloc : (instrRecord i s).loc = .addr a) (hlow : 0x0800 ≤ a)
    (hhigh : a < 0x2000) (hx : t.x = s.x) (hy : t.y = s.y) (hcell : ∀ b, b ≠ a → t.cell b = s.cell b) :
    exec i t = .next (stored i t a (shiftOf i.op (operandOf i s) t.flags.c).result
      (t.flags.afterShift (shiftOf i.op (operandOf i s) t.flags.c))) := by
  obtain ⟨hloc', hsame⟩ := operandOf_mirrored hlow hhigh hmod hloc hx hy hcell
  have hexec := exec_shift_addr hshift hj hloc'
  rwa [hsame] at hexec

/-- Settles O49: the result depends on the operand and the carry alone, and on a mirrored address the operand stays.
From the second run on the carry is the bit that falls out, so the third run repeats the second. -/
theorem shiftsComplete : Obligations.ShiftsComplete := by
  unfold Obligations.ShiftsComplete
  intro i s r out v f h
  obtain ⟨hr, hshift, hj, hmod, hw⟩ := shiftOf_eq h
  refine ⟨fun hm => ?_, fun hm => ?_⟩
  · have hloc : (instrRecord i s).loc = .none :=
      beq_iff_eq.1 ((resolveLoc_none_iff i.mode i.arg s).trans (by rw [hm]; rfl))
    have hnotImm : (instrRecord i s).mode ≠ .IMM := fun himm => by cases hm.symm.trans himm
    have hexec := exec_shift_acc hshift hj hloc
    rw [hr] at hexec
    exact ⟨(operandRead_none hloc s).trans (if_neg hnotImm), hexec⟩
  · obtain ⟨a, hloc⟩ := exists_addr_of_writesOperand hw hm s
    have hexec := exec_shift_addr hshift hj hloc
    rw [hr] at hexec
    have hcell := (storesOnly_stored i s a r f).2
    refine ⟨a, stored i s a r f, hloc, hexec, storesOnly_stored _ _ _ _ _, rfl, fun hlow hhigh => ?_⟩
    have hread : v = s.cell (a &&& 0x07FF) := (operandRead_addr hloc s).trans (s.readByte_mirrored hhigh)
    have hagain {t : State} := exec_shift_again (t := t) hshift hj hmod hloc hlow hhigh
    refine ⟨hread, ?_, fun hop => ?_, ?_, ?_⟩
    · rw [cell_stored, if_neg (bank_ne_of_mirrored hlow hhigh), hread]
    · have hcarry : shiftOf i.op v out = ⟨r, out⟩ := by
        rw [← hr]
        rcases hop with hop | hop <;> rw [hop] <;> rfl
      have hexec' := hagain (t := stored i s a r f) rfl rfl hcell
      rw [show (stored i s a r f).flags.c = out from rfl, hcarry] at hexec'
      exact execStores_of_eq hexec'
    · have hexec' := hagain (t := (stored i s a r f).setC s.flags.c) rfl rfl hcell
      rw [show ((stored i s a r f).setC s.flags.c).flags.c = s.flags.c from rfl, hr] at hexec'
      exact execStores_of_eq hexec'
    · obtain ⟨q, hq⟩ : ∃ q, shiftOf i.op v out = q := ⟨_, rfl⟩
      have hout : q.out = out := by
        rw [← hq, shiftOf_out i.op v out s.flags.c, hr]
      have hsecond := hagain (t := stored i s a r f) rfl rfl hcell
      rw [show (stored i s a r f).flags.c = out from rfl, hq] at hsecond
      refine ⟨_, hsecond, hout, ?_⟩
      have hthird := hagain (t := stored i (stored i s a r f) a q.result (f.afterShift q)) rfl rfl
        fun b hb => ((storesOnly_stored i (stored i s a r f) a q.result (f.afterShift q)).2 b hb).trans (hcell b hb)
      rw [show (stored i (stored i s a r f) a q.result (f.afterShift q)).flags.c = out from hout, hq] at hthird
      rw [cell_stored, if_pos rfl]
      exact execStores_of_eq hthird

end Sys2Proof.Machine
end

section
/-! Jumps, calls, returns, branches and pushes: the obligations of 44_ref_control_flow.md and of the pushes of
45_ref_stack_flags.md. -/

namespace Sys2Proof.Machine

/-! ## Jumps -/

/-- JMP indirect where its pointer read does not fault (44_ref_control_flow.md R271). -/
theorem exec_jmpInd {s : State} {a : Word} (h : s.cfg.topWrap = .wrap ∨ a ≠ 0xFFFF) :
    exec (.jmpInd a) s = .next { retired (.jmpInd a) s with pc := s.wordAt a } := by
  rw [exec_of_handler (h := handleJMP) rfl]
  exact (perform_ok (i := .jmpInd a) (resolutionFault_ind h) rfl).trans rfl

/-- Settles O50: only the indirect jump reads a pointer, and its word read faults at the top of memory alone. -/
theorem jumpAndNopComplete : Obligations.JumpAndNopComplete := by
  unfold Obligations.JumpAndNopComplete
  intro s a
  refine ⟨rfl, fun h => exec_jmpInd h.symm, ?_, rfl⟩
  rintro rfl hfault
  have hf : resolutionFault .IND 0xFFFF s = some (.memory 0xFFFF) :=
    (resolutionFault_eq_some_iff _ _ _ _).2 ⟨rfl, rfl, hfault, rfl⟩
  rw [exec_of_handler (h := handleJMP) rfl]
  exact perform_of_resolutionFault (i := .jmpInd 0xFFFF) hf

/-! ## Calls and returns -/

/-- A word push writes memory and the pointer, and nothing else (20_memory.md R81). -/
theorem State.push16_eq_record (s : State) (w : Word) :
    s.push16 w = { s with mem := (s.push16 w).mem, sp := s.sp - 1 - 1 } := rfl

/-- What JSR leaves: the address of its own last byte pushed, PC at its operand (44_ref_control_flow.md R272). -/
theorem exec_jsr (s : State) (a : Word) :
    exec (.jsr a) s = .next { retired (.jsr a) s with
      pc := a, sp := s.sp - 1 - 1, mem := ((s.atHandler (.jsr a)).push16 (s.pc + 2)).mem } := by
  have hlast : (s.atHandler (.jsr a)).pc - 1 = s.pc + 2 := by
    show s.pc + 3 - 1 = s.pc + 2
    bv_omega
  refine (exec_of_op (op := .JSR) rfl rfl (by decide) rfl).trans ?_
  rw [hlast, State.push16_eq_record]
  rfl

/-- What RTS leaves: PC past the popped word (44_ref_control_flow.md R273). -/
theorem exec_rts (s : State) :
    exec .rts s = .next { retired .rts s with sp := s.pop16.2.sp, pc := s.pop16.1 + 1 } := rfl

/-- Settles O51: JSR sees PC three past its opcode byte, and the two slots of a word push are those of `cell_push16`.
-/
theorem subroutineCallAndReturnComplete : Obligations.SubroutineCallAndReturnComplete := by
  unfold Obligations.SubroutineCallAndReturnComplete
  intro s a
  constructor
  · have hsp : s.sp - 1 - 1 = s.sp - 2 := by bv_omega
    have hexec := exec_jsr s a
    rw [hsp] at hexec
    have hcell (b : Word) := (s.atHandler (.jsr a)).cell_push16 (s.pc + 2) b
    refine ⟨_, hexec, rfl, (hcell _).trans (if_pos rfl), fun haligned => ?_, fun b hhigh hlow => ?_⟩
    · have hslots : stackAddr s.cfg s.sp ≠ stackAddr s.cfg (s.sp - 1) := by
        rw [Ne, stackAddr_inj haligned]
        bv_omega
      exact (hcell _).trans ((if_neg hslots).trans (if_pos rfl))
    · exact (hcell b).trans ((if_neg hlow).trans (if_neg hhigh))
  · have hsp : s.sp + 1 + 1 = s.sp + 2 := by bv_omega
    rw [exec_rts, State.pop16_eq, hsp]
    rfl

/-- A word pop looks at memory, the pointer and the configuration (20_memory.md R82). -/
theorem State.pop16_congr {s t : State} (hmem : t.mem = s.mem) (hsp : t.sp = s.sp) (hcfg : t.cfg = s.cfg) :
    t.pop16.1 = s.pop16.1 := by
  simp only [State.pop16_eq, State.readByte_congr hmem, hsp, hcfg]

/-- Settles O52: RTS pops the word that JSR pushed. -/
theorem returnFollowsCall : Obligations.ReturnFollowsCall := by
  unfold Obligations.ReturnFollowsCall
  intro s t u a hadm ht hu
  obtain ⟨hword, hsp⟩ := State.pop16_push16 (s := s.atHandler (.jsr a)) hadm (s.pc + 2)
  have hcall : t = _ := Host.Outcome.next.inj (ht.symm.trans (exec_jsr s a))
  have hreturn : u = _ := Host.Outcome.next.inj (hu.symm.trans (exec_rts t))
  have hmem : t.mem = ((s.atHandler (.jsr a)).push16 (s.pc + 2)).mem := by rw [hcall]
  have htsp : t.sp = ((s.atHandler (.jsr a)).push16 (s.pc + 2)).sp := by rw [hcall]; rfl
  have hcfg : t.cfg = ((s.atHandler (.jsr a)).push16 (s.pc + 2)).cfg := by rw [hcall]; rfl
  have hpc : u.pc = t.pop16.1 + 1 := by rw [hreturn]
  have husp : u.sp = t.sp + 1 + 1 := by rw [hreturn]; rfl
  constructor
  · rw [hpc, State.pop16_congr hmem htsp hcfg, hword]
    bv_omega
  · rw [husp, htsp]
    exact hsp

/-- The return from interrupt as a record update (44_ref_control_flow.md R274). -/
theorem returnFromInterrupt_eq_record (s : State) :
    returnFromInterrupt s = { s with
      flags := decodeStatus (s.readByte (stackAddr s.cfg (s.sp + 1)))
      pc := mkWord (s.readByte (stackAddr s.cfg (s.sp + 1 + 1))) (s.readByte (stackAddr s.cfg (s.sp + 1 + 1 + 1)))
      sp := s.sp + 1 + 1 + 1 } := rfl

/-- Settles O53: one pop, then two more. -/
theorem returnFromInterruptCompletes : Obligations.ReturnFromInterruptCompletes := by
  unfold Obligations.ReturnFromInterruptCompletes
  intro s
  have htwo : s.sp + 1 + 1 = s.sp + 2 := by bv_omega
  have hthree : s.sp + 2 + 1 = s.sp + 3 := by bv_omega
  refine (exec_of_op (op := .RTI) rfl rfl (by decide) rfl).trans ?_
  rw [returnFromInterrupt_eq_record, State.atHandler_sp, htwo, hthree]
  rfl

/-! ## Branches -/

/-- Adding a sign-extended displacement is adding its signed value, modulo 65536 (44_ref_control_flow.md R270). -/
theorem add_signExtend (pc : Word) (d : Byte) :
    pc + (loByte (d.zeroExtend 16)).signExtend 16 = BitVec.ofInt 16 ((pc.toNat : Int) + d.toInt) := by
  rw [show d.zeroExtend 16 = d.setWidth 16 from rfl, loByte_setWidth]
  apply BitVec.eq_of_toInt_eq
  rw [BitVec.toInt_add, BitVec.toInt_signExtend_of_le (by decide), BitVec.toInt_ofInt, BitVec.toInt_eq_toNat_bmod,
    Int.bmod_add_bmod]

/-- Settles O54: each branch tests its flag and adds its displacement to the address after it. -/
theorem branchesComplete : Obligations.BranchesComplete := by
  unfold Obligations.BranchesComplete
  intro s d
  have hbranch {i : Instr} {op : Op} {h : Handler} {cond : Bool} (hop : i.op = op) (hh : handlerOf op = some h)
      (hj : op ≠ .JMP)
      (hrun : h (instrRecord i s) (s.atHandler i) = .ok (branch cond (instrRecord i s) (s.atHandler i)))
      (harg : (instrRecord i s).arg = d.zeroExtend 16) (hlen : i.len = 2) :
      exec i s = .next { retired i s with
        pc := if cond = true then BitVec.ofInt 16 (((s.pc + 2).toNat : Int) + d.toInt) else s.pc + 2 } := by
    rw [exec_of_op hop hh hj hrun, branch_eq, harg, State.atHandler_pc, hlen, add_signExtend]
    rfl
  have hclear (b : Bool) (x y : Word) : (if (!b) = true then x else y) = if b = false then x else y := by
    cases b <;> rfl
  refine ⟨?_, ?_, ?_, ?_, ?_, ?_, ?_, ?_⟩
  · rw [← hclear]; exact hbranch (op := .BCC) rfl rfl (by decide) rfl rfl rfl
  · exact hbranch (op := .BCS) rfl rfl (by decide) rfl rfl rfl
  · exact hbranch (op := .BEQ) rfl rfl (by decide) rfl rfl rfl
  · rw [← hclear]; exact hbranch (op := .BNE) rfl rfl (by decide) rfl rfl rfl
  · exact hbranch (op := .BMI) rfl rfl (by decide) rfl rfl rfl
  · rw [← hclear]; exact hbranch (op := .BPL) rfl rfl (by decide) rfl rfl rfl
  · rw [← hclear]; exact hbranch (op := .BVC) rfl rfl (by decide) rfl rfl rfl
  · exact hbranch (op := .BVS) rfl rfl (by decide) rfl rfl rfl

/-! ## Pushes -/

/-- Settles O55: a push stores at the slot of the pointer. -/
theorem pushesComplete : Obligations.PushesComplete := by
  unfold Obligations.PushesComplete
  rintro s i v (⟨rfl, rfl⟩ | ⟨rfl, rfl⟩)
  · exact ⟨_, rfl, .of_cell_eq (State.cell_push (s.atHandler .pha) s.a), rfl⟩
  · exact ⟨_, rfl, .of_cell_eq (State.cell_push (s.atHandler .php) (encodeStatus s.flags true)), rfl⟩

end Sys2Proof.Machine
end

section
/-! Reset, power-on and the two program loads: the obligations of 70_reset_and_hazards.md. -/

namespace Sys2Proof.Machine

/-! ## Reset and power-on -/

/-- The reset operation where its vector read does not fault (70_reset_and_hazards.md R361 to R365). -/
theorem resetOperation_of_readable {s : State} (h : s.cfg.topWrap = .wrap ∨ s.cfg.resetVector ≠ 0xFFFF) :
    resetOperation s = .next { s with
      last := none, x := 0, y := 0, es := .idle
      pc := mkWord (s.readByte s.cfg.resetVector) (s.readByte (s.cfg.resetVector + 1)) } := by
  unfold resetOperation
  rw [State.readWord_ok h]
  rfl

/-- The reset operation at the top of memory under the faulting policy (60_exceptions.md R332; log 24). -/
theorem resetOperation_of_topFault {s : State} (hv : s.cfg.resetVector = 0xFFFF) (hf : s.cfg.topWrap = .fault) :
    resetOperation s = .fault (.memory 0xFFFF) := by
  unfold resetOperation
  rw [(s.readWord_eq_error_iff _ _).2 ⟨rfl, hv, hf⟩]

/-- Settles O58: the vector read is the one thing of a reset that can fault. -/
theorem resetOperationEffect : Obligations.ResetOperationEffect := by
  unfold Obligations.ResetOperationEffect
  exact fun s => ⟨fun h => resetOperation_of_readable h.symm, resetOperation_of_topFault⟩

/-- The reset after power-on reads its vector from memory that is 0 everywhere (70_reset_and_hazards.md R364). -/
theorem resetOperation_powerOn {cfg : Config} (init : Init) (h : cfg.topWrap = .wrap ∨ cfg.resetVector ≠ 0xFFFF) :
    resetOperation (powerOn cfg init) = .next { powerOn cfg init with x := 0, y := 0, pc := 0x0000 } := by
  have hzero (p q : Word) : mkWord ((powerOn cfg init).readByte p) ((powerOn cfg init).readByte q) = 0x0000 :=
    (by decide : mkWord 0 0 = 0x0000)
  rw [resetOperation_of_readable (s := powerOn cfg init) h, hzero]
  rfl

/-- Settles O59: every read of the zero-filled memory is 0, the vector's too. -/
theorem resetStateIsPowerOnThenReset : Obligations.ResetStateIsPowerOnThenReset := by
  unfold Obligations.ResetStateIsPowerOnThenReset
  constructor
  · intro cfg init
    exact ⟨⟨rfl, rfl, rfl, rfl, rfl, rfl⟩, fun a => ⟨rfl, rfl⟩, rfl, rfl, rfl, rfl,
      fun h => resetOperation_powerOn init h.symm, resetOperation_of_topFault (s := powerOn cfg init)⟩
  · exact fun x y pc => resetOperation_powerOn (cfg := Config.ref) _ (.inl rfl)

/-! ## The copy -/

/-- The cells after a copy that fits (70_reset_and_hazards.md R371). -/
theorem cell_copyFrom {base : Word} {bytes : List Byte} (hfits : base.toNat + bytes.length ≤ 65536) (s : State)
    (a : Word) :
    (copyFrom base bytes s).cell a =
      if base.toNat ≤ a.toNat ∧ a.toNat < base.toNat + bytes.length then bytes.getD (a.toNat - base.toNat) 0
      else s.cell a := by
  induction bytes generalizing base s with
  | nil =>
    rw [if_neg (by simp)]
    rfl
  | cons v rest ih =>
    rw [List.length_cons] at hfits ⊢
    have hnext : (base + 1).toNat = base.toNat + 1 ∨ (base + 1).toNat = 0 ∧ rest.length = 0 := by
      rw [BitVec.toNat_add, show (1 : Word).toNat = 1 from rfl]
      omega
    rw [copyFrom, ih (by omega), State.cell_writeByte]
    by_cases hfirst : a = base
    · subst hfirst
      rw [if_neg (by omega), if_pos rfl, if_pos (by omega), Nat.sub_self, List.getD_cons_zero]
    · have hne : a.toNat ≠ base.toNat := fun h => hfirst (BitVec.eq_of_toNat_eq h)
      rw [if_neg hfirst]
      by_cases hin : base.toNat ≤ a.toNat ∧ a.toNat < base.toNat + (rest.length + 1)
      · have hpos : a.toNat - base.toNat = a.toNat - (base + 1).toNat + 1 := by omega
        rw [if_pos hin, if_pos (by omega), hpos, List.getD_cons_succ]
      · rw [if_neg hin, if_neg (by omega)]

@[simp] theorem copyFrom_cfg (base : Word) (bytes : List Byte) (s : State) :
    (copyFrom base bytes s).cfg = s.cfg := by
  rw [copyFrom_eq]

/-! ## The part both loads share -/

/-- What the cells hold after a load: PRG_BASE at the vector, the program from PRG_BASE on, the rest as it was. -/
def Copied (s : State) (bytes : List Byte) (vector : Word) (t : State) : Prop :=
  t.cell vector = loByte s.cfg.prgBase ∧ t.cell (vector + 1) = hiByte s.cfg.prgBase ∧
    ∀ a : Word, a ≠ vector → a ≠ vector + 1 →
      t.cell a = if s.cfg.prgBase.toNat ≤ a.toNat ∧ a.toNat < s.cfg.prgBase.toNat + bytes.length
        then bytes.getD (a.toNat - s.cfg.prgBase.toNat) 0 else s.cell a

section Load
variable {s : State} {bytes : List Byte} {vector : Word}

/-- A sequence that does not fit (60_exceptions.md R333). -/
theorem loadAt_of_too_long (h : 65536 < s.cfg.prgBase.toNat + bytes.length) :
    loadAt vector bytes s = .error (.load s.cfg.prgBase bytes.length) := by
  rw [loadAt, if_pos h]

theorem loadAt_of_fits (h : s.cfg.prgBase.toNat + bytes.length ≤ 65536) :
    loadAt vector bytes s = (copyFrom s.cfg.prgBase bytes s).writeWord vector s.cfg.prgBase := by
  rw [loadAt, if_neg (not_lt.2 h)]

/-- A vector at the top of memory under the faulting policy (60_exceptions.md R332; log 24). -/
theorem loadAt_of_topFault (h : s.cfg.prgBase.toNat + bytes.length ≤ 65536)
    (htop : vector = 0xFFFF ∧ s.cfg.topWrap = .fault) : loadAt vector bytes s = .error (.memory 0xFFFF) := by
  obtain ⟨rfl, hf⟩ := htop
  have hfault : wordFaults (copyFrom s.cfg.prgBase bytes s).cfg 0xFFFF = true :=
    (wordFaults_iff _ _).2 ⟨rfl, by rw [copyFrom_cfg, hf]⟩
  rw [loadAt_of_fits h, State.writeWord, if_pos hfault]

/-- Any other load of a sequence that fits (70_reset_and_hazards.md R371, R373, R374). -/
theorem exists_loadAt (h : s.cfg.prgBase.toNat + bytes.length ≤ 65536)
    (htop : ¬ (vector = 0xFFFF ∧ s.cfg.topWrap = .fault)) :
    ∃ t, loadAt vector bytes s = .ok t ∧ Copied s bytes vector t ∧ t = { s with mem := t.mem } := by
  have hno : ¬ wordFaults (copyFrom s.cfg.prgBase bytes s).cfg vector = true := by
    rwa [wordFaults_iff, copyFrom_cfg]
  have hwrite : (copyFrom s.cfg.prgBase bytes s).writeWord vector s.cfg.prgBase = .ok _ := if_neg hno
  have hload := (loadAt_of_fits (vector := vector) h).trans hwrite
  obtain ⟨hlo, hhi⟩ := State.placed_of_writeWord hwrite
  refine ⟨_, hload, ⟨hlo, hhi, fun a hne hne' => ?_⟩, (loadAt_ok hload).1⟩
  rw [State.cell_of_writeWord hwrite, if_neg hne', if_neg hne, cell_copyFrom h]

/-- On an admissible configuration the reset vector reads back as PRG_BASE (00_scope.md R7 (b)). -/
theorem Copied.wordAt_vector {t : State} (h : Copied s bytes s.cfg.resetVector t) (hadm : s.cfg.admissible = true) :
    mkWord (t.readByte s.cfg.resetVector) (t.readByte (s.cfg.resetVector + 1)) = s.cfg.prgBase := by
  obtain ⟨hlo, hhi, -⟩ := h
  simp only [Config.admissible, Bool.and_eq_true] at hadm
  obtain ⟨⟨⟨-, hvector⟩, hnext⟩, -⟩ := hadm
  rw [State.readByte, State.readByte, eff_of_plain ((plainAddress_iff _).1 hvector),
    eff_of_plain ((plainAddress_iff _).1 hnext), hlo, hhi, mkWord_loByte_hiByte]

/-- Every byte of an admitted program reads back: it lies at a plain address and off the vector (00_scope.md R7 (b),
(d)). -/
theorem Copied.readByte_program {t : State} (h : Copied s bytes s.cfg.resetVector t)
    (hprogram : s.cfg.admitsProgram bytes.length = true) {k : Nat} (hk : k < bytes.length) :
    t.readByte (s.cfg.prgBase + BitVec.ofNat 16 k) = bytes.getD k 0 := by
  obtain ⟨-, -, hcells⟩ := h
  simp only [Config.admitsProgram, Config.programCovers, Bool.and_eq_true, Bool.or_eq_true, Bool.not_eq_true',
    Bool.and_eq_false_iff, decide_eq_true_eq, decide_eq_false_iff_not, beq_iff_eq] at hprogram
  obtain ⟨⟨⟨hplain, hfits⟩, hvector⟩, hnext⟩ := hprogram
  have haddr : (s.cfg.prgBase + BitVec.ofNat 16 k).toNat = s.cfg.prgBase.toNat + k := by
    rw [BitVec.toNat_add, BitVec.toNat_ofNat]
    omega
  have hoff {q : Word} (hq : ¬ s.cfg.prgBase.toNat ≤ q.toNat ∨ ¬ q.toNat < s.cfg.prgBase.toNat + bytes.length) :
      s.cfg.prgBase + BitVec.ofNat 16 k ≠ q := fun he => by
    rw [he] at haddr
    omega
  have heff : eff (s.cfg.prgBase + BitVec.ofNat 16 k) = s.cfg.prgBase + BitVec.ofNat 16 k := by
    apply BitVec.eq_of_toNat_eq
    rw [toNat_eff, haddr]
    split <;> omega
  rw [State.readByte, heff, hcells _ (hoff hvector) (hoff hnext), haddr, if_pos (by omega), Nat.add_sub_cancel_left]

end Load

/-- Settles O60: the loads share `loadAt`; the production load then resets, which reads the vector just written. -/
theorem loadsCopyTheProgram : Obligations.LoadsCopyTheProgram := by
  unfold Obligations.LoadsCopyTheProgram
  intro s bytes
  refine ⟨fun hlong => ⟨?_, ?_⟩, fun hfits => ⟨fun htop => ?_, fun htop => ?_, fun htop => ?_, fun htop => ?_⟩⟩
  · rw [loadProduction, loadAt_of_too_long hlong]
  · rw [loadTest, loadAt_of_too_long hlong]
  · rw [loadTest, loadAt_of_topFault hfits htop]
  · obtain ⟨t, hload, hcopied, hframe⟩ := exists_loadAt hfits htop
    exact ⟨t, by rw [loadTest, hload], hcopied, hframe⟩
  · rw [loadProduction, loadAt_of_topFault hfits htop]
  · obtain ⟨t, hload, hcopied, hframe⟩ := exists_loadAt hfits htop
    obtain ⟨m, rfl⟩ : ∃ m, t = { s with mem := m } := ⟨t.mem, hframe⟩
    have hreadable : s.cfg.topWrap = .wrap ∨ s.cfg.resetVector ≠ 0xFFFF := by
      cases hw : s.cfg.topWrap with
      | wrap => exact .inl rfl
      | fault => exact .inr fun hv => htop ⟨hv, hw⟩
    have hreset : loadProduction bytes s = resetOperation { s with mem := m } := by rw [loadProduction, hload]
    exact ⟨_, hreset.trans (resetOperation_of_readable (s := { s with mem := m }) hreadable), hcopied, rfl, rfl,
      fun hadm => ⟨hcopied.wordAt_vector hadm, fun hprogram k hk => hcopied.readByte_program hprogram hk⟩⟩

end Sys2Proof.Machine
end
